-- ==== Sys2Proof/Word.lean ====
section
/-! DEFINITION. The words of the engine: what its registers, its memory cells and its binary32 encodings are made of. -/

namespace Sys2Proof

/-- A 32-bit register or address (10_state.md R33). -/
abbrev Word := BitVec 32

/-- One byte of data memory (20_memory.md R80). -/
abbrev Byte := BitVec 8

/-- The encoding of an IEEE 754 binary32 value (00_scope.md R12). -/
abbrev F32 := BitVec 32

/-- The data memory, as a list of (address, byte) pairs. What an unlisted address reads as is `Memory.blank`. -/
abbrev Memory := List Host.Cell

end Sys2Proof
end

