-- ==== Sys2Proof/HostPort.lean ====
section
/-! DEFINITION. What the outside world does to the engine: the accesses of the host port, and the turns of the two agents
(10_state.md R30). -/

namespace Sys2Proof

/-- The widths of a host access (20_memory.md R80). -/
inductive Width where
  | byte
  | half
  | word
  deriving DecidableEq, Repr

/-- The bytes of an access of this width. -/
def Width.bytes : Width → Nat
  | .byte => 1
  | .half => 2
  | .word => 4

/-- One host access: to the register block (10_state.md R33, an offset inside its 256 bytes) or to data memory
(20_memory.md R80). A narrow access carries its data in the low bits of `value` (log 12). -/
inductive HostAccess where
  | regRead (offset : BitVec 8) (width : Width)
  | regWrite (offset : BitVec 8) (width : Width) (value : Word)
  | memRead (addr : Word) (width : Width)
  | memWrite (addr : Word) (width : Width) (value : Word)
  deriving DecidableEq, Repr

/-- What moves next (10_state.md R30): the engine, the host with one access, or a power-on reset from outside
(70_reset_and_hazards.md R450). -/
inductive Turn where
  | engine
  | host (access : HostAccess)
  | powerOn
  deriving DecidableEq, Repr

end Sys2Proof
end

