-- ==== Sys2Proof/Layout.lean ====
section
/-! DEFINITION. The pixel layouts of 30_encoding.md R116. -/

namespace Sys2Proof

/-- The six pixel layouts `LAYOUT` can name (30_encoding.md R116). The reserved codes 6 to 15 name none. -/
inductive Layout where
  | rgb
  | bgr
  | rgbx
  | bgrx
  | xrgb
  | xbgr
  deriving DecidableEq, Repr

end Sys2Proof
end

