-- ==== Sys2Proof/Syntax.lean ====
section
/-! DEFINITION. The commands of the engine, one constructor for each row of spec/opcode_table.json (30_encoding.md R112).
A command's operands are registers (R110), so the only field of a command is the pixel layout, and only for the
operations that use it. -/

namespace Sys2Proof

/-- A command (30_encoding.md R112). -/
inductive Instr where
  | nop
  | fdctIslow
  | fdctIfast
  | fdctFloat
  | quantInt
  | quantFloat
  | qtblPrep
  | idctIslow
  | idctIfast
  | idctFloat
  | idct2x2
  | idct4x4
  | idct6x6
  | idct12x12
  | rgbYcc (layout : Layout)
  | rgbGray (layout : Layout)
  | yccRgb (layout : Layout)
  | yccRgb565
  | downH2v1
  | downH2v2
  | upH2v1Box
  | upH2v2Box
  | upH2v1Fancy
  | upH1v2Fancy
  | upH2v2Fancy
  | mergedH2v1 (layout : Layout)
  | mergedH2v2 (layout : Layout)
  deriving DecidableEq, Repr

end Sys2Proof
end

