-- ==== Sys2Proof/WellFormed.lean ====
section
/-! DEFINITION. Which terms are well formed. Every `Instr` is: a layout that 30_encoding.md R116 reserves cannot be written as
a `Layout`, so nothing is left to check. What can be ill formed is a host access: three checks, and an access that fails
one is refused (93_implementation_defined.md I9 and I10). -/

namespace Sys2Proof

/-- An address is a multiple of the access's size. -/
def aligned (addr : Nat) (w : Width) : Bool := addr % w.bytes == 0

/-- The access ends inside a memory of `size` bytes (20_memory.md R80). -/
def inMemory (size addr : Nat) (w : Width) : Bool := Nat.ble (addr + w.bytes) size

/-- A register is reached only by an aligned 32-bit access (10_state.md R33). -/
def registerShape (offset : Nat) (w : Width) : Bool := w == .word && aligned offset w

/-- The host accesses the spec gives a meaning in a machine with `size` bytes of data memory (10_state.md R33,
20_memory.md R80). -/
def HostAccess.wellFormed (size : Nat) : HostAccess → Bool
  | .regRead offset w => registerShape offset.toNat w
  | .regWrite offset w _ => registerShape offset.toNat w
  | .memRead addr w => aligned addr.toNat w && inMemory size addr.toNat w
  | .memWrite addr w _ => aligned addr.toNat w && inMemory size addr.toNat w

end Sys2Proof
end

