-- ==== Sys2Proof/Decode.lean ====
section
/-! DEFINITION. The decoder of 30_encoding.md R112 and, after it, the encoder written from the same tables. -/

namespace Sys2Proof

/-- Why a command word names no command: the two encoding errors of 60_exceptions.md R401. -/
inductive DecodeError where
  /-- `OP` is in no row of 30_encoding.md R112. -/
  | opcode
  /-- A nonzero reserved bit, or a `LAYOUT` the operation does not allow (30_encoding.md R117). -/
  | reserved
  deriving DecidableEq, Repr

/-- A row of 30_encoding.md R112: an operation without or with a `LAYOUT` field. -/
inductive OpRow where
  | plain (instr : Instr)
  | withLayout (make : Layout → Instr)

/-- The fields of a command word (30_encoding.md R111). -/
def opField (w : Word) : Nat := w.toNat % 256

/-- `LAYOUT`, bits 11:8 (30_encoding.md R111). -/
def layoutField (w : Word) : Nat := w.toNat / 256 % 16

/-- The reserved bits 31:12 (30_encoding.md R111). -/
def reservedField (w : Word) : Nat := w.toNat / 4096

/-- The operation map (30_encoding.md R112). -/
def opRow : Nat → Option OpRow
  | 0x00 => some (.plain .nop)
  | 0x10 => some (.plain .fdctIslow)
  | 0x11 => some (.plain .fdctIfast)
  | 0x12 => some (.plain .fdctFloat)
  | 0x20 => some (.plain .quantInt)
  | 0x21 => some (.plain .quantFloat)
  | 0x22 => some (.plain .qtblPrep)
  | 0x30 => some (.plain .idctIslow)
  | 0x31 => some (.plain .idctIfast)
  | 0x32 => some (.plain .idctFloat)
  | 0x33 => some (.plain .idct2x2)
  | 0x34 => some (.plain .idct4x4)
  | 0x35 => some (.plain .idct6x6)
  | 0x36 => some (.plain .idct12x12)
  | 0x40 => some (.withLayout .rgbYcc)
  | 0x41 => some (.withLayout .rgbGray)
  | 0x42 => some (.withLayout .yccRgb)
  | 0x43 => some (.plain .yccRgb565)
  | 0x50 => some (.plain .downH2v1)
  | 0x51 => some (.plain .downH2v2)
  | 0x52 => some (.plain .upH2v1Box)
  | 0x53 => some (.plain .upH2v2Box)
  | 0x54 => some (.plain .upH2v1Fancy)
  | 0x55 => some (.plain .upH1v2Fancy)
  | 0x56 => some (.plain .upH2v2Fancy)
  | 0x58 => some (.withLayout .mergedH2v1)
  | 0x59 => some (.withLayout .mergedH2v2)
  | _ => none

/-- The layout a `LAYOUT` code names (30_encoding.md R116). -/
def layoutOf : Nat → Option Layout
  | 0 => some .rgb
  | 1 => some .bgr
  | 2 => some .rgbx
  | 3 => some .bgrx
  | 4 => some .xrgb
  | 5 => some .xbgr
  | _ => none

/-- The decoder of 30_encoding.md R112: the operation code first, then the reserved bits and the layout. -/
def decode (w : Word) : Except DecodeError Instr :=
  match opRow (opField w) with
  | none => .error .opcode
  | some (.plain i) =>
    if reservedField w = 0 ∧ layoutField w = 0 then .ok i else .error .reserved
  | some (.withLayout make) =>
    match layoutOf (layoutField w) with
    | none => .error .reserved
    | some l => if reservedField w = 0 then .ok (make l) else .error .reserved

/-- The decoder on a word numbered as spec/opcode_table.json numbers it (one 32-bit word, every bit above `nbits` 0). -/
def decodeTableWord (nbits w : Nat) : Option Instr :=
  match decode (BitVec.ofNat 32 (w % Nat.pow 2 nbits)) with
  | .ok i => some i
  | .error _ => none

/-- The `LAYOUT` code of a layout (30_encoding.md R116). -/
def Layout.code : Layout → Nat
  | .rgb => 0
  | .bgr => 1
  | .rgbx => 2
  | .bgrx => 3
  | .xrgb => 4
  | .xbgr => 5

/-- The operation code of a command (30_encoding.md R112). -/
def Instr.op : Instr → Nat
  | .nop => 0x00
  | .fdctIslow => 0x10
  | .fdctIfast => 0x11
  | .fdctFloat => 0x12
  | .quantInt => 0x20
  | .quantFloat => 0x21
  | .qtblPrep => 0x22
  | .idctIslow => 0x30
  | .idctIfast => 0x31
  | .idctFloat => 0x32
  | .idct2x2 => 0x33
  | .idct4x4 => 0x34
  | .idct6x6 => 0x35
  | .idct12x12 => 0x36
  | .rgbYcc _ => 0x40
  | .rgbGray _ => 0x41
  | .yccRgb _ => 0x42
  | .yccRgb565 => 0x43
  | .downH2v1 => 0x50
  | .downH2v2 => 0x51
  | .upH2v1Box => 0x52
  | .upH2v2Box => 0x53
  | .upH2v1Fancy => 0x54
  | .upH1v2Fancy => 0x55
  | .upH2v2Fancy => 0x56
  | .mergedH2v1 _ => 0x58
  | .mergedH2v2 _ => 0x59

/-- The layout a command carries, if its operation uses one (30_encoding.md R112). -/
def Instr.layout? : Instr → Option Layout
  | .rgbYcc l => some l
  | .rgbGray l => some l
  | .yccRgb l => some l
  | .mergedH2v1 l => some l
  | .mergedH2v2 l => some l
  | .nop => none
  | .fdctIslow => none
  | .fdctIfast => none
  | .fdctFloat => none
  | .quantInt => none
  | .quantFloat => none
  | .qtblPrep => none
  | .idctIslow => none
  | .idctIfast => none
  | .idctFloat => none
  | .idct2x2 => none
  | .idct4x4 => none
  | .idct6x6 => none
  | .idct12x12 => none
  | .yccRgb565 => none
  | .downH2v1 => none
  | .downH2v2 => none
  | .upH2v1Box => none
  | .upH2v2Box => none
  | .upH2v1Fancy => none
  | .upH1v2Fancy => none
  | .upH2v2Fancy => none

/-- The command word `OP | (LAYOUT << 8)` (30_encoding.md R118). -/
def encode (i : Instr) : Word :=
  BitVec.ofNat 32 (i.op + 256 * ((i.layout?.map Layout.code).getD 0))

end Sys2Proof
end

