-- ==== Sys2Proof/Config.lean ====
section
/-! DEFINITION. The implementation parameters of 00_scope.md R8, and the free values of the model. -/

namespace Sys2Proof

/-- `RANGE_LIMIT_MODE` (00_scope.md R8, 43_idct.md R202 and R213). -/
inductive RangeLimit where
  | saturate
  | mask10
  deriving DecidableEq, Repr

/-- `IFAST_OUTPUT_ROUNDING` (00_scope.md R8, 43_idct.md R210). -/
inductive IfastRounding where
  | bias
  | truncate
  deriving DecidableEq, Repr

/-- `FLOAT_QUANT_OP` (00_scope.md R8, 42_quant.md R188). -/
inductive FloatQuant where
  | divide
  | multiply
  deriving DecidableEq, Repr

/-- The parameters of 00_scope.md R8. `SAMPLE_BITS` is fixed at 8 (R3) and has no field.
The machine's state carries one `Config`, and no step changes it (log 2). -/
structure Config where
  /-- `DMEM_SIZE`, the bytes of data memory. -/
  dmemSize : Nat
  rangeLimit : RangeLimit
  ifastRounding : IfastRounding
  floatQuant : FloatQuant
  /-- `FILLER_VALUE`, the byte written at the filler position of 4-byte output pixels. -/
  filler : Byte
  deriving DecidableEq, Repr

namespace Config

/-- The `DBE-1` column of 00_scope.md R8, with the defaults for the parameters it leaves OPEN. -/
def dbe1 : Config where
  dmemSize := 65536
  rangeLimit := .saturate
  ifastRounding := .bias
  floatQuant := .divide
  filler := 255#8

/-- The legal values of 00_scope.md R8: `DMEM_SIZE` is a multiple of 4 from 256 to `2^32`. -/
def wf (c : Config) : Bool :=
  c.dmemSize % 4 == 0 && Nat.ble 256 c.dmemSize && Nat.ble c.dmemSize 4294967296

/-- The byte drawn freely for an address at a draw (20_memory.md R87, 70_reset_and_hazards.md R451). The first argument
is the number of draws made before. DESIGN CHOICE for the form only: nothing says which byte it is (log 5). -/
opaque freeByte : Nat → Nat → Byte

end Config

end Sys2Proof
end

