-- ==== Sys2Proof/Machine/State.lean ====
section
/-! DEFINITION. The state of the engine as plain data, the reasons a step can stop, and the state after reset. -/

namespace Sys2Proof.Machine

/-- Everything 10_state.md and 20_memory.md give the machine, with the parameters of 00_scope.md R8 and three fields of
the model's own (`agenda`, `hostData`, `draws`). `ID` and `CAP` are constants (R35, R36) and `START`, `SRST` and the
reserved bits read as 0 (R38, R39, R44), so none of them has a field. `IRQ` is derived (R48). -/
structure State where
  /-- The implementation parameters (00_scope.md R8), which no step changes (log 2). -/
  cfg : Config
  /-- `CTRL.IRQ_EN` (R38). -/
  irqEn : Bool
  /-- `STATUS.BUSY` (R39): a command is pending. -/
  busy : Bool
  /-- `STATUS.DONE` (R39). -/
  done : Bool
  /-- `STATUS.ERR` (R39). -/
  err : Bool
  /-- `STATUS.ERRCODE` (R39). -/
  errCode : Byte
  /-- `CMD` (R40). -/
  cmd : Word
  /-- `SRC0` (R41). -/
  src0 : Word
  /-- `SRC1` (R41). -/
  src1 : Word
  /-- `SRC2` (R41). -/
  src2 : Word
  /-- `DST0` (R41). -/
  dst0 : Word
  /-- `DST1` (R41). -/
  dst1 : Word
  /-- `DST2` (R41). -/
  dst2 : Word
  /-- `TBL` (R41). -/
  tbl : Word
  /-- `SSTRIDE` (R42): `SS0` in bits 15:0, `SS1` in bits 31:16. -/
  sstride : Word
  /-- `DSTRIDE` (R42): `DS0` in bits 15:0, `DS1` in bits 31:16. -/
  dstride : Word
  /-- `WIDTH` (R43): `W0` in bits 15:0, `W1` in bits 31:16. -/
  width : Word
  /-- `ROWS.NROWS` (R44). -/
  nrows : BitVec 16
  /-- `DMEM` (20_memory.md R80). -/
  mem : Memory
  /-- The turns still to come, in order (10_state.md R30). Empty: the host does nothing more (log 3). -/
  agenda : List Turn
  /-- What the last host read returned (log 4). -/
  hostData : Word
  /-- How many times bytes were drawn freely (log 5). -/
  draws : Nat
  deriving DecidableEq, Repr

/-- Why the machine stops with a fault. -/
inductive Fault where
  /-- The host touched a byte inside a span of the pending command while `BUSY = 1` (20_memory.md R93,
  70_reset_and_hazards.md R461). Raised by a host memory access. Safe: the spec tells a model to stop here. -/
  | hazard
  deriving DecidableEq, Repr

/-- Why the machine has no meaning for what is asked of it. -/
inductive Refusal where
  /-- An instruction without a meaning yet, raised by `exec` alone. Safe. -/
  | notModelled (mnemonic : String)
  /-- A register access that is not an aligned 32-bit access (10_state.md R33, 93_implementation_defined.md I9). Raised
  by a host register access. Safe: the spec tells a model to refuse it. -/
  | registerAccess
  /-- A data memory access that is misaligned or reaches beyond `DMEM_SIZE` (20_memory.md R80,
  93_implementation_defined.md I10). Raised by a host memory access. Safe: the spec tells a model to refuse it. -/
  | memoryAccess
  deriving DecidableEq, Repr

namespace State

/-- The machine right after a power-on reset (10_state.md R49, 70_reset_and_hazards.md R450). `DMEM` is unspecified there:
nothing is listed (log 1). -/
def reset : State where
  cfg := Config.dbe1
  irqEn := false
  busy := false
  done := false
  err := false
  errCode := 0#8
  cmd := 0#32
  src0 := 0#32
  src1 := 0#32
  src2 := 0#32
  dst0 := 0#32
  dst1 := 0#32
  dst2 := 0#32
  tbl := 0#32
  sstride := 0#32
  dstride := 0#32
  width := 0#32
  nrows := 0#16
  mem := []
  agenda := []
  hostData := 0#32
  draws := 0

end State

end Sys2Proof.Machine
end

