-- ==== Sys2Proof/Machine/Flags.lean ====
section
/-! DEFINITION. The only flags the engine has: the bits of `STATUS` and `CTRL` (10_state.md R38, R39) and the interrupt line
derived from them (R48). -/

namespace Sys2Proof.Machine

/-- The error codes of 60_exceptions.md R401. -/
inductive CmdError where
  | opcode
  | reserved
  | param
  | align
  | range
  | overlap
  | data
  deriving DecidableEq, Repr

/-- The code `STATUS.ERRCODE` reports (60_exceptions.md R401). -/
def CmdError.code : CmdError → Byte
  | .opcode => 1#8
  | .reserved => 2#8
  | .param => 3#8
  | .align => 4#8
  | .range => 5#8
  | .overlap => 6#8
  | .data => 7#8

/-- A bit of a register word. -/
def bitAt (n : Nat) (b : Bool) : Nat := if b then Nat.pow 2 n else 0

/-- `STATUS` as the host reads it (10_state.md R39): `BUSY` 0, `DONE` 1, `ERR` 2, `ERRCODE` 15:8, the rest 0. -/
def State.statusWord (s : State) : Word :=
  BitVec.ofNat 32 (bitAt 0 s.busy + bitAt 1 s.done + bitAt 2 s.err + 256 * s.errCode.toNat)

/-- `CTRL` as the host reads it (10_state.md R38): `IRQ_EN` in bit 1, the rest 0. -/
def State.ctrlWord (s : State) : Word := BitVec.ofNat 32 (bitAt 1 s.irqEn)

/-- The interrupt line, `IRQ_EN AND DONE` (10_state.md R48, 60_exceptions.md R410). -/
def State.irq (s : State) : Bool := s.irqEn && s.done

/-- The end of a command step that succeeded (10_state.md R46). -/
def State.complete (s : State) : State :=
  { s with busy := false, done := true, err := false, errCode := 0#8 }

/-- The end of a command step that failed (10_state.md R46, 60_exceptions.md R402). -/
def State.fail (s : State) (e : CmdError) : State :=
  { s with busy := false, done := true, err := true, errCode := e.code }

/-- The write-1-to-clear bits of `STATUS` (10_state.md R39): `DONE` is bit 1, `ERR` is bit 2. -/
def State.clearStatus (s : State) (v : Word) : State :=
  { s with done := s.done && !v.getLsbD 1, err := s.err && !v.getLsbD 2 }

/-- What a `START` that takes effect does (10_state.md R38). -/
def State.begin (s : State) : State :=
  { s with busy := true, done := false, err := false, errCode := 0#8 }

end Sys2Proof.Machine
end

