-- ==== Sys2Proof/Machine/Arith.lean ====
section
/-! DEFINITION. The integer functions of 00_scope.md R10 and R11, on unbounded integers. -/

namespace Sys2Proof.Machine

/-- `x >> n`, the floor of `x / 2^n` for every sign of `x` (00_scope.md R10). -/
def asr (x : Int) (n : Nat) : Int := x / (Nat.pow 2 n : Nat)

/-- `x << n`, which is `x * 2^n` (00_scope.md R10). -/
def shl (x : Int) (n : Nat) : Int := x * (Nat.pow 2 n : Nat)

/-- `DESCALE(x, n)`, round-half-up division by `2^n` (00_scope.md R11). -/
def descale (x : Int) (n : Nat) : Int := asr (x + shl 1 (n - 1)) n

/-- `clamp(x, lo, hi)` (00_scope.md R11). -/
def clamp (x lo hi : Int) : Int := if x < lo then lo else if hi < x then hi else x

/-- `wrap16(x)`, signed 16-bit two's complement (00_scope.md R11). -/
def wrap16 (x : Int) : Int := (x + 32768) % 65536 - 32768

/-- `sext_16(v)` (00_scope.md R11). -/
def sext16 (v : Nat) : Int := if v % 65536 < 32768 then ((v % 65536 : Nat) : Int) else ((v % 65536 : Nat) : Int) - 65536

/-- A byte as the number it encodes. -/
def byteVal (b : Byte) : Int := (b.toNat : Int)

/-- The byte that stores `u8(v)` (00_scope.md R11, R13). -/
def toByte (v : Int) : Byte := BitVec.ofInt 8 v

end Sys2Proof.Machine
end

