-- ==== Sys2Proof/Machine/Memory.lean ====
section
/-! DEFINITION. The data memory: its canonical form, reading and writing one byte, and the wider accesses of 20_memory.md R81
built from it. The canonical form lists addresses strictly rising and no byte equal to what an unlisted address
reads as, so that equal memories are equal lists. -/

namespace Sys2Proof.Machine.Memory

/-- What an unlisted address reads as. The spec leaves `DMEM` open after power-on (20_memory.md R87). DESIGN CHOICE (log 1). -/
def blank : Byte := 0#8

/-- The addresses rise strictly. -/
def rising : Memory → Bool
  | [] => true
  | c :: m => m.all (fun d => Nat.blt c.1 d.1) && rising m

/-- The canonical form. -/
def wf (m : Memory) : Bool := rising m && m.all (fun c => c.2 != blank)

/-- Every listed address is below `size` (20_memory.md R80). -/
def within (size : Nat) (m : Memory) : Bool := m.all (fun c => Nat.blt c.1 size)

/-- The byte at an address. -/
def read : Memory → Nat → Byte
  | [], _ => blank
  | c :: m, a => if c.1 = a then c.2 else read m a

/-- The memory without an address. -/
def erase : Memory → Nat → Memory
  | [], _ => []
  | c :: m, a => if c.1 = a then erase m a else c :: erase m a

/-- A cell put in front of the first one at a higher address. -/
def insert (c : Host.Cell) : Memory → Memory
  | [] => [c]
  | d :: m => if c.1 < d.1 then c :: d :: m else d :: insert c m

/-- One byte written. Writing what an unlisted address reads as removes the entry. -/
def write (m : Memory) (a : Nat) (b : Byte) : Memory :=
  if b = blank then erase m a else insert (a, b) (erase m a)

/-- Many bytes written, in order. -/
def writeCells (m : Memory) : List Host.Cell → Memory
  | [] => m
  | c :: cs => writeCells (write m c.1 c.2) cs

/-- `MemRead(a, n)`, little-endian (20_memory.md R81, R82). -/
def readLE (m : Memory) (a : Nat) : Nat → Nat
  | 0 => 0
  | n + 1 => (read m a).toNat + 256 * readLE m (a + 1) n

/-- The bytes `MemWrite(a, n, v)` writes, least significant byte at `a` (20_memory.md R81, R82). -/
def cellsLE (a : Nat) (v : Int) : Nat → List Host.Cell
  | 0 => []
  | n + 1 => (a, toByte v) :: cellsLE (a + 1) (asr v 8) n

/-- `S8(a)`, an unsigned sample (00_scope.md R13). -/
def s8 (m : Memory) (a : Nat) : Int := byteVal (read m a)

/-- `I16(a)` (00_scope.md R13). -/
def i16 (m : Memory) (a : Nat) : Int := sext16 (readLE m a 2)

/-- `U16(a)` (00_scope.md R13). -/
def u16 (m : Memory) (a : Nat) : Nat := readLE m a 2

/-- `F32(a)` (00_scope.md R13). -/
def f32 (m : Memory) (a : Nat) : F32 := BitVec.ofNat 32 (readLE m a 4)

/-- The cells a two-dimensional loop writes: rows `0 .. n-1`, columns `0 .. w-1`, in that order. -/
def gridCells (n w : Nat) (f : Nat → Nat → List Host.Cell) : List Host.Cell :=
  (List.range n).flatMap fun r => (List.range w).flatMap fun j => f r j

/-- Free bytes written at `n` addresses from `a` on: the byte at an address is `free` of it. -/
def fill (free : Nat → Byte) (m : Memory) (a : Nat) : Nat → Memory
  | 0 => m
  | n + 1 => fill free (write m a (free a)) (a + 1) n

/-- A memory of `size` bytes, each of them free (20_memory.md R87). -/
def allFree (free : Nat → Byte) (size : Nat) : Memory := fill free [] 0 size

end Sys2Proof.Machine.Memory
end

