-- ==== Sys2Proof/Machine/Operands.lean ====
section
/-! DEFINITION. The operands of every operation: the fields of the stride, width and count registers (10_state.md R42 to R44),
the pixel layouts (30_encoding.md R116), regions and spans (20_memory.md R85), and the regions, parameter constraints and
alignments of 30_encoding.md R113 and R114. -/

namespace Sys2Proof.Machine

/-- Bits 15:0 of a register. -/
def lowHalf (w : Word) : Nat := w.toNat % 65536

/-- Bits 31:16 of a register. -/
def highHalf (w : Word) : Nat := w.toNat / 65536

/-- `SS0` (10_state.md R42). -/
def State.ss0 (s : State) : Nat := lowHalf s.sstride

/-- `SS1` (10_state.md R42). -/
def State.ss1 (s : State) : Nat := highHalf s.sstride

/-- `DS0` (10_state.md R42). -/
def State.ds0 (s : State) : Nat := lowHalf s.dstride

/-- `DS1` (10_state.md R42). -/
def State.ds1 (s : State) : Nat := highHalf s.dstride

/-- `W0` (10_state.md R43). -/
def State.w0 (s : State) : Nat := lowHalf s.width

/-- `W1` (10_state.md R43). -/
def State.w1 (s : State) : Nat := highHalf s.width

/-- `NROWS` (10_state.md R44). -/
def State.rowCount (s : State) : Nat := s.nrows.toNat

/-- `H = (W0 + 1) >> 1`, the chroma width of the merged operations (30_encoding.md R113). -/
def State.halfWidth (s : State) : Nat := (s.w0 + 1) / 2

/-- The pixel size `P` (30_encoding.md R116). -/
def pixelBytes : Layout → Nat
  | .rgb => 3
  | .bgr => 3
  | .rgbx => 4
  | .bgrx => 4
  | .xrgb => 4
  | .xbgr => 4

/-- The offset of the red sample in a pixel (30_encoding.md R116). -/
def redOffset : Layout → Nat
  | .rgb => 0
  | .bgr => 2
  | .rgbx => 0
  | .bgrx => 2
  | .xrgb => 1
  | .xbgr => 3

/-- The offset of the green sample in a pixel (30_encoding.md R116). -/
def greenOffset : Layout → Nat
  | .rgb => 1
  | .bgr => 1
  | .rgbx => 1
  | .bgrx => 1
  | .xrgb => 2
  | .xbgr => 2

/-- The offset of the blue sample in a pixel (30_encoding.md R116). -/
def blueOffset : Layout → Nat
  | .rgb => 2
  | .bgr => 0
  | .rgbx => 2
  | .bgrx => 0
  | .xrgb => 3
  | .xbgr => 1

/-- The offset of the filler byte, where the layout has one (30_encoding.md R116). -/
def fillerOffset : Layout → Option Nat
  | .rgb => none
  | .bgr => none
  | .rgbx => some 3
  | .bgrx => some 3
  | .xrgb => some 0
  | .xbgr => some 0

/-- `Region(base, nrows, stride, rowbytes)` (20_memory.md R85). The base is an integer: it may lie below 0. -/
structure Region where
  base : Int
  nrows : Nat
  stride : Nat
  rowbytes : Nat
  deriving DecidableEq, Repr

/-- The lower end of the span (20_memory.md R85). -/
def Region.lo (r : Region) : Int := r.base

/-- The upper end of the span, in unbounded integers (20_memory.md R85). -/
def Region.hi (r : Region) : Int := r.base + ((r.nrows : Int) - 1) * (r.stride : Int) + (r.rowbytes : Int)

/-- The span holds an address. -/
def Region.spans (r : Region) (a : Nat) : Bool := decide (r.lo ≤ (a : Int) ∧ (a : Int) < r.hi)

/-- The region's set of bytes holds an address (20_memory.md R85). -/
def Region.Holds (r : Region) (a : Nat) : Prop :=
  ∃ row k : Nat, row < r.nrows ∧ k < r.rowbytes ∧ (a : Int) = r.base + ((row * r.stride + k : Nat) : Int)

/-- The span lies in a memory of `size` bytes (20_memory.md R85). -/
def Region.inRange (size : Nat) (r : Region) : Bool := decide (0 ≤ r.lo ∧ r.hi ≤ (size : Int))

/-- Two spans have an address in common (20_memory.md R86). -/
def Region.meets (r t : Region) : Bool := decide (max r.lo t.lo < min r.hi t.hi)

/-- A region's own rows overlap (20_memory.md R86). -/
def Region.selfOverlap (r : Region) : Bool := decide (1 < r.nrows ∧ r.stride < r.rowbytes)

/-- What 30_encoding.md R113 and R114 say of one operation with the registers of one state: the regions, the parameter
constraints, and the values that must be multiples of an alignment. -/
structure Plan where
  paramOk : Bool
  aligns : List (Nat × Nat)
  inputs : List Region
  outputs : List Region
  deriving DecidableEq, Repr

/-- A region of one row at a register's address. -/
def flatRegion (base : Word) (bytes : Nat) : Region := ⟨(base.toNat : Int), 1, 0, bytes⟩

/-- A region of rows at a register's address. -/
def rowRegion (base : Word) (nrows stride rowbytes : Nat) : Region := ⟨(base.toNat : Int), nrows, stride, rowbytes⟩

/-- Rows `-1 .. NROWS` of the region `SRC0` names (45_resample.md R303). -/
def contextRegion (s : State) : Region :=
  ⟨(s.src0.toNat : Int) - (s.ss0 : Int), s.rowCount + 2, s.ss0, s.w0⟩

/-- `NOP` (30_encoding.md R113). -/
def planNop : Plan := ⟨true, [], [], []⟩

/-- The forward DCTs: `bytes` and `align` of the output (30_encoding.md R113). -/
def planFdct (bytes align : Nat) (s : State) : Plan :=
  ⟨true, [(s.dst0.toNat, align)], [rowRegion s.src0 8 s.ss0 8], [flatRegion s.dst0 bytes]⟩

/-- `QUANT_INT` (30_encoding.md R113). -/
def planQuantInt (s : State) : Plan :=
  ⟨true, [(s.src0.toNat, 2), (s.tbl.toNat, 2), (s.dst0.toNat, 2)],
    [flatRegion s.src0 128, flatRegion s.tbl 384], [flatRegion s.dst0 128]⟩

/-- `QUANT_FLOAT` (30_encoding.md R113). -/
def planQuantFloat (s : State) : Plan :=
  ⟨true, [(s.src0.toNat, 4), (s.tbl.toNat, 4), (s.dst0.toNat, 2)],
    [flatRegion s.src0 256, flatRegion s.tbl 256], [flatRegion s.dst0 128]⟩

/-- `QTBL_PREP` (30_encoding.md R113). -/
def planQtblPrep (s : State) : Plan :=
  ⟨true, [(s.src0.toNat, 2), (s.dst0.toNat, 2)], [flatRegion s.src0 128], [flatRegion s.dst0 384]⟩

/-- The inverse DCTs with an int16 table and an output of `n` rows of `n` samples (30_encoding.md R113). -/
def planIdctInt (n : Nat) (s : State) : Plan :=
  ⟨true, [(s.src0.toNat, 2), (s.tbl.toNat, 2)],
    [flatRegion s.src0 128, flatRegion s.tbl 128], [rowRegion s.dst0 n s.ds0 n]⟩

/-- `IDCT_FLOAT` (30_encoding.md R113). -/
def planIdctFloat (s : State) : Plan :=
  ⟨true, [(s.src0.toNat, 2), (s.tbl.toNat, 4)],
    [flatRegion s.src0 128, flatRegion s.tbl 256], [rowRegion s.dst0 8 s.ds0 8]⟩

/-- The constraint of every colour and resampling operation (30_encoding.md R114). -/
def State.imageOk (s : State) : Bool := Nat.ble 1 s.rowCount && Nat.ble 1 s.w0

/-- The pixel rows of an RGB-family input. -/
def pixelInput (l : Layout) (s : State) : Region := rowRegion s.src0 s.rowCount s.ss0 (s.w0 * pixelBytes l)

/-- Three full-resolution planes Y, Cb, Cr as inputs (30_encoding.md R113). -/
def planeInputs (s : State) : List Region :=
  [rowRegion s.src0 s.rowCount s.ss0 s.w0, rowRegion s.src1 s.rowCount s.ss1 s.w0, rowRegion s.src2 s.rowCount s.ss1 s.w0]

/-- `RGB_YCC` (30_encoding.md R113). -/
def planRgbYcc (l : Layout) (s : State) : Plan :=
  ⟨s.imageOk, [], [pixelInput l s],
    [rowRegion s.dst0 s.rowCount s.ds0 s.w0, rowRegion s.dst1 s.rowCount s.ds1 s.w0, rowRegion s.dst2 s.rowCount s.ds1 s.w0]⟩

/-- `RGB_GRAY` (30_encoding.md R113). -/
def planRgbGray (l : Layout) (s : State) : Plan :=
  ⟨s.imageOk, [], [pixelInput l s], [rowRegion s.dst0 s.rowCount s.ds0 s.w0]⟩

/-- `YCC_RGB` (30_encoding.md R113). -/
def planYccRgb (l : Layout) (s : State) : Plan :=
  ⟨s.imageOk, [], planeInputs s, [rowRegion s.dst0 s.rowCount s.ds0 (s.w0 * pixelBytes l)]⟩

/-- `YCC_RGB565` (30_encoding.md R113). -/
def planYccRgb565 (s : State) : Plan :=
  ⟨s.imageOk, [(s.dst0.toNat, 2), (s.ds0, 2)], planeInputs s, [rowRegion s.dst0 s.rowCount s.ds0 (2 * s.w0)]⟩

/-- The downsamplers, with `k` input rows for each output row (30_encoding.md R113, R114). -/
def planDown (k : Nat) (s : State) : Plan :=
  ⟨s.imageOk && Nat.ble 1 s.w1 && Nat.ble s.w0 (2 * s.w1), [], [rowRegion s.src0 (k * s.rowCount) s.ss0 s.w0],
    [rowRegion s.dst0 s.rowCount s.ds0 s.w1]⟩

/-- The box upsamplers, with `k` output rows for each input row (30_encoding.md R113). -/
def planUpBox (k : Nat) (s : State) : Plan :=
  ⟨s.imageOk, [], [rowRegion s.src0 s.rowCount s.ss0 s.w0], [rowRegion s.dst0 (k * s.rowCount) s.ds0 (2 * s.w0)]⟩

/-- `UP_H2V1_FANCY` (30_encoding.md R113, R114). -/
def planUpH2v1Fancy (s : State) : Plan :=
  ⟨s.imageOk && Nat.ble 2 s.w0, [], [rowRegion s.src0 s.rowCount s.ss0 s.w0], [rowRegion s.dst0 s.rowCount s.ds0 (2 * s.w0)]⟩

/-- `UP_H1V2_FANCY` (30_encoding.md R113). -/
def planUpH1v2Fancy (s : State) : Plan :=
  ⟨s.imageOk, [], [contextRegion s], [rowRegion s.dst0 (2 * s.rowCount) s.ds0 s.w0]⟩

/-- `UP_H2V2_FANCY` (30_encoding.md R113, R114). -/
def planUpH2v2Fancy (s : State) : Plan :=
  ⟨s.imageOk && Nat.ble 2 s.w0, [], [contextRegion s], [rowRegion s.dst0 (2 * s.rowCount) s.ds0 (2 * s.w0)]⟩

/-- The merged operations, with `k` luma rows for each chroma row (30_encoding.md R113). -/
def planMerged (k : Nat) (l : Layout) (s : State) : Plan :=
  ⟨s.imageOk, [],
    [rowRegion s.src0 (k * s.rowCount) s.ss0 s.w0, rowRegion s.src1 s.rowCount s.ss1 s.halfWidth,
      rowRegion s.src2 s.rowCount s.ss1 s.halfWidth],
    [rowRegion s.dst0 (k * s.rowCount) s.ds0 (s.w0 * pixelBytes l)]⟩

/-- The row of 30_encoding.md R113 and R114 for a command. -/
def plan (s : State) : Instr → Plan
  | .nop => planNop
  | .fdctIslow => planFdct 128 2 s
  | .fdctIfast => planFdct 128 2 s
  | .fdctFloat => planFdct 256 4 s
  | .quantInt => planQuantInt s
  | .quantFloat => planQuantFloat s
  | .qtblPrep => planQtblPrep s
  | .idctIslow => planIdctInt 8 s
  | .idctIfast => planIdctInt 8 s
  | .idctFloat => planIdctFloat s
  | .idct2x2 => planIdctInt 2 s
  | .idct4x4 => planIdctInt 4 s
  | .idct6x6 => planIdctInt 6 s
  | .idct12x12 => planIdctInt 12 s
  | .rgbYcc l => planRgbYcc l s
  | .rgbGray l => planRgbGray l s
  | .yccRgb l => planYccRgb l s
  | .yccRgb565 => planYccRgb565 s
  | .downH2v1 => planDown 1 s
  | .downH2v2 => planDown 2 s
  | .upH2v1Box => planUpBox 1 s
  | .upH2v2Box => planUpBox 2 s
  | .upH2v1Fancy => planUpH2v1Fancy s
  | .upH1v2Fancy => planUpH1v2Fancy s
  | .upH2v2Fancy => planUpH2v2Fancy s
  | .mergedH2v1 l => planMerged 1 l s
  | .mergedH2v2 l => planMerged 2 l s

end Sys2Proof.Machine
end

