-- ==== Sys2Proof/Machine/Ops.lean ====
section
/-! DEFINITION. The shared operations: the checks of a command and its error (60_exceptions.md R402, R403), the command step
around an operation (10_state.md R46), reset (70_reset_and_hazards.md R450, R451), and the host's register and memory
accesses (10_state.md R33 to R45, 20_memory.md R80). -/

namespace Sys2Proof.Machine

/-- A command error taken (60_exceptions.md R402): no byte of `DMEM` changes, and `STATUS` reports the code. This is the
engine's only exception (R400). There is no handler to enter (R412). -/
def State.takeCmdError (s : State) (e : CmdError) : Host.Outcome State Fault Refusal := .next (s.fail e)

/-- The return from it (60_exceptions.md R413): the host acknowledges by a write of 1 to the bits of `STATUS`. -/
def State.acknowledge (s : State) (v : Word) : State := s.clearStatus v

/-- Every value of the list is a multiple of its alignment. -/
def alignsOk (l : List (Nat × Nat)) : Bool := l.all fun p => p.1 % p.2 == 0

/-- No two regions of the list have spans that meet (20_memory.md R86). -/
def pairwiseApart : List Region → Bool
  | [] => true
  | r :: rs => rs.all (fun t => !r.meets t) && pairwiseApart rs

/-- The rule of 20_memory.md R86. -/
def Plan.apart (p : Plan) : Bool :=
  p.outputs.all (fun o => p.inputs.all (fun i => !o.meets i)) && pairwiseApart p.outputs &&
    p.outputs.all (fun o => !o.selfOverlap)

/-- Every span of the plan lies in a memory of `size` bytes (20_memory.md R85). -/
def Plan.inRange (p : Plan) (size : Nat) : Bool :=
  p.inputs.all (Region.inRange size) && p.outputs.all (Region.inRange size)

/-- Checks 3 to 6 of 60_exceptions.md R403, in that order. Checks 1 and 2 are the decoder's. -/
def Plan.check (p : Plan) (size : Nat) : Option CmdError :=
  if !p.paramOk then some .param
  else if !alignsOk p.aligns then some .align
  else if !p.inRange size then some .range
  else if !p.apart then some .overlap
  else none

/-- The command step of an operation (10_state.md R46) whose data check (60_exceptions.md R403, check 7) is `dataOk` and whose
output bytes are `out`, both computed from the state as it stood when the step began. -/
def runCommand (p : Plan) (dataOk : State → Bool) (out : State → List Host.Cell) (s : State) :
    Host.Outcome State Fault Refusal :=
  match p.check s.cfg.dmemSize with
  | some e => s.takeCmdError e
  | none =>
    if dataOk s then .next { s with mem := Memory.writeCells s.mem (out s) }.complete
    else s.takeCmdError .data

/-- The data check of every operation but `QTBL_PREP`: none (60_exceptions.md R403). -/
def anyData (_ : State) : Bool := true

/-- The plan of the pending command, if `BUSY = 1` and `CMD` names a command (20_memory.md R93, log 7). -/
def State.pendingPlan (s : State) : Option Plan :=
  if s.busy then
    match decode s.cmd with
    | .ok i => some (plan s i)
    | .error _ => none
  else none

/-- The spans of the pending command hold an address (20_memory.md R93). -/
def State.pendingSpans (s : State) (a : Nat) : Bool :=
  match s.pendingPlan with
  | some p => (p.inputs ++ p.outputs).any (fun r => r.spans a)
  | none => false

/-- Every register at its reset value (70_reset_and_hazards.md R450). `DMEM`, the parameters and the model's own fields stay. -/
def State.resetRegisters (s : State) : State :=
  { State.reset with cfg := s.cfg, mem := s.mem, agenda := s.agenda, hostData := s.hostData, draws := s.draws }

/-- The bytes of one span inside a memory of `size` bytes drawn freely. -/
def fillSpan (free : Nat → Byte) (size : Nat) (m : Memory) (r : Region) : Memory :=
  let lo := (max r.lo 0).toNat
  let hi := (min r.hi (size : Int)).toNat
  Memory.fill free m lo (hi - lo)

/-- The output spans of an abandoned command drawn freely (70_reset_and_hazards.md R451). -/
def fillSpans (free : Nat → Byte) (size : Nat) (m : Memory) : List Region → Memory
  | [] => m
  | r :: rs => fillSpans free size (fillSpan free size m r) rs

/-- Soft reset (70_reset_and_hazards.md R451). A pending command is abandoned and every byte inside the spans of its output
regions is a free value. -/
def State.softReset (s : State) : State :=
  match s.pendingPlan with
  | none => s.resetRegisters
  | some p =>
    { s.resetRegisters with
      mem := fillSpans (Config.freeByte s.draws) s.cfg.dmemSize s.mem p.outputs
      draws := s.draws + 1 }

/-- Power-on reset as an event (70_reset_and_hazards.md R450): every byte of `DMEM` is a free value (20_memory.md R87). -/
def State.powerOn (s : State) : State :=
  { s.resetRegisters with
    mem := Memory.allFree (Config.freeByte s.draws) s.cfg.dmemSize
    draws := s.draws + 1 }

/-- A register as the host reads it (10_state.md R34). A reserved offset reads 0 (R33). -/
def State.readReg (s : State) (offset : BitVec 8) : Word :=
  match offset.toNat with
  | 0x00 => 0x44424531#32
  | 0x04 => 0x0000007F#32
  | 0x08 => s.ctrlWord
  | 0x0C => s.statusWord
  | 0x10 => s.cmd
  | 0x14 => s.src0
  | 0x18 => s.src1
  | 0x1C => s.src2
  | 0x20 => s.dst0
  | 0x24 => s.dst1
  | 0x28 => s.dst2
  | 0x2C => s.tbl
  | 0x30 => s.sstride
  | 0x34 => s.dstride
  | 0x38 => s.width
  | 0x3C => BitVec.ofNat 32 s.nrows.toNat
  | _ => 0#32

/-- A write of `CTRL` (10_state.md R38): `SRST` is bit 2 and wins over the rest of the word (log 8), `IRQ_EN` is bit 1 and
takes its new value before `START`, bit 0, starts a command if none is pending. -/
def State.writeCtrl (s : State) (v : Word) : State :=
  if v.getLsbD 2 then s.softReset
  else
    let s1 : State := { s with irqEn := v.getLsbD 1 }
    if v.getLsbD 0 && !s1.busy then s1.begin else s1

/-- A write of `CMD` or an operand register with `BUSY = 0` (10_state.md R40 to R44). `ID`, `CAP`, reserved offsets and the
reserved bits of `ROWS` ignore writes (R33, R34, R44). -/
def State.writeOperand (s : State) (offset : BitVec 8) (v : Word) : State :=
  match offset.toNat with
  | 0x10 => { s with cmd := v }
  | 0x14 => { s with src0 := v }
  | 0x18 => { s with src1 := v }
  | 0x1C => { s with src2 := v }
  | 0x20 => { s with dst0 := v }
  | 0x24 => { s with dst1 := v }
  | 0x28 => { s with dst2 := v }
  | 0x2C => { s with tbl := v }
  | 0x30 => { s with sstride := v }
  | 0x34 => { s with dstride := v }
  | 0x38 => { s with width := v }
  | 0x3C => { s with nrows := BitVec.ofNat 16 v.toNat }
  | _ => s

/-- A 32-bit register write (10_state.md R34, R45): `CTRL` and `STATUS` at any time, the rest only with `BUSY = 0`. -/
def State.writeReg (s : State) (offset : BitVec 8) (v : Word) : State :=
  if offset = 0x08#8 then s.writeCtrl v
  else if offset = 0x0C#8 then s.acknowledge v
  else if s.busy then s
  else s.writeOperand offset v

/-- The access has a shape the spec gives a meaning (10_state.md R33, 20_memory.md R80). -/
def State.accessAllowed (s : State) (a : HostAccess) : Bool := a.wellFormed s.cfg.dmemSize

/-- Some byte of an access lies in a span of the pending command (20_memory.md R93). -/
def State.accessHazard (s : State) (addr : Nat) (w : Width) : Bool :=
  (List.range w.bytes).any fun k => s.pendingSpans (addr + k)

/-- One host access (10_state.md R30). An access of a shape the spec leaves open is refused, whatever else holds of it (log 6),
and a memory access to a span of the pending command faults (70_reset_and_hazards.md R461). -/
def State.hostAccess (s : State) (a : HostAccess) : Host.Outcome State Fault Refusal :=
  match a with
  | .regRead offset _ =>
    if s.accessAllowed a then .next { s with hostData := s.readReg offset } else .refused .registerAccess
  | .regWrite offset _ v =>
    if s.accessAllowed a then .next (s.writeReg offset v) else .refused .registerAccess
  | .memRead addr w =>
    if s.accessAllowed a then
      if s.accessHazard addr.toNat w then .fault .hazard
      else .next { s with hostData := BitVec.ofNat 32 (Memory.readLE s.mem addr.toNat w.bytes) }
    else .refused .memoryAccess
  | .memWrite addr w v =>
    if s.accessAllowed a then
      if s.accessHazard addr.toNat w then .fault .hazard
      else .next { s with mem := Memory.writeCells s.mem (Memory.cellsLE addr.toNat (v.toNat : Int) w.bytes) }
    else .refused .memoryAccess

end Sys2Proof.Machine
end

