-- ==== Sys2Proof/Machine/Control.lean ====
section
/-! DEFINITION. The control operation (40_control.md). -/

namespace Sys2Proof.Machine

/-- `NOP` (40_control.md R140): no read or write of `DMEM`. -/
def execNop (s : State) : Host.Outcome State Fault Refusal := runCommand (plan s .nop) anyData (fun _ => []) s

end Sys2Proof.Machine
end

