-- ==== Sys2Proof/Machine/Block.lean ====
section
/-! DEFINITION. Blocks of 8, 6 and 12 values and the index changes the separable transforms use (00_scope.md R14,
41_fdct.md R151, 43_idct.md R204). -/

namespace Sys2Proof.Machine

/-- Eight values: a row or a column of a block. -/
structure V8 (α : Type) where
  e0 : α
  e1 : α
  e2 : α
  e3 : α
  e4 : α
  e5 : α
  e6 : α
  e7 : α
  deriving DecidableEq, Repr

/-- Six values: a row or a column of the 6 by 6 inverse transform. -/
structure V6 (α : Type) where
  e0 : α
  e1 : α
  e2 : α
  e3 : α
  e4 : α
  e5 : α
  deriving DecidableEq, Repr

/-- Twelve values: a row or a column of the 12 by 12 inverse transform. -/
structure V12 (α : Type) where
  e0 : α
  e1 : α
  e2 : α
  e3 : α
  e4 : α
  e5 : α
  e6 : α
  e7 : α
  e8 : α
  e9 : α
  e10 : α
  e11 : α
  deriving DecidableEq, Repr

/-- The eight values of a function at 0 to 7. -/
def tabulate8 {α : Type} (f : Nat → α) : V8 α := ⟨f 0, f 1, f 2, f 3, f 4, f 5, f 6, f 7⟩

/-- A function on each of the eight values. -/
def map8 {α β : Type} (f : α → β) (v : V8 α) : V8 β :=
  ⟨f v.e0, f v.e1, f v.e2, f v.e3, f v.e4, f v.e5, f v.e6, f v.e7⟩

/-- The value at an index. -/
def get8 {α : Type} (v : V8 α) : Nat → α
  | 0 => v.e0
  | 1 => v.e1
  | 2 => v.e2
  | 3 => v.e3
  | 4 => v.e4
  | 5 => v.e5
  | 6 => v.e6
  | _ => v.e7

/-- Rows and columns of an 8 by 8 block exchanged. -/
def transpose8 {α : Type} (m : V8 (V8 α)) : V8 (V8 α) :=
  ⟨map8 V8.e0 m, map8 V8.e1 m, map8 V8.e2 m, map8 V8.e3 m, map8 V8.e4 m, map8 V8.e5 m, map8 V8.e6 m, map8 V8.e7 m⟩

/-- The element of row `y`, column `x`. -/
def at8 {α : Type} (m : V8 (V8 α)) (y x : Nat) : α := get8 (get8 m y) x

/-- The 8 by 8 block of a function of row and column. -/
def block8 {α : Type} (f : Nat → Nat → α) : V8 (V8 α) := tabulate8 fun y => tabulate8 fun x => f y x

/-- The six values of a function at 0 to 5. -/
def tabulate6 {α : Type} (f : Nat → α) : V6 α := ⟨f 0, f 1, f 2, f 3, f 4, f 5⟩

/-- A function on each of the six values. -/
def map6 {α β : Type} (f : α → β) (v : V6 α) : V6 β := ⟨f v.e0, f v.e1, f v.e2, f v.e3, f v.e4, f v.e5⟩

/-- The value at an index. -/
def get6 {α : Type} (v : V6 α) : Nat → α
  | 0 => v.e0
  | 1 => v.e1
  | 2 => v.e2
  | 3 => v.e3
  | 4 => v.e4
  | _ => v.e5

/-- Rows and columns of a 6 by 6 block exchanged. -/
def transpose6 {α : Type} (m : V6 (V6 α)) : V6 (V6 α) :=
  ⟨map6 V6.e0 m, map6 V6.e1 m, map6 V6.e2 m, map6 V6.e3 m, map6 V6.e4 m, map6 V6.e5 m⟩

/-- A function on each of the twelve values. -/
def map12 {α β : Type} (f : α → β) (v : V12 α) : V12 β :=
  ⟨f v.e0, f v.e1, f v.e2, f v.e3, f v.e4, f v.e5, f v.e6, f v.e7, f v.e8, f v.e9, f v.e10, f v.e11⟩

/-- The value at an index. -/
def get12 {α : Type} (v : V12 α) : Nat → α
  | 0 => v.e0
  | 1 => v.e1
  | 2 => v.e2
  | 3 => v.e3
  | 4 => v.e4
  | 5 => v.e5
  | 6 => v.e6
  | 7 => v.e7
  | 8 => v.e8
  | 9 => v.e9
  | 10 => v.e10
  | _ => v.e11

/-- Eight columns of twelve values as twelve rows of eight. -/
def transpose12 {α : Type} (m : V8 (V12 α)) : V12 (V8 α) :=
  ⟨map8 V12.e0 m, map8 V12.e1 m, map8 V12.e2 m, map8 V12.e3 m, map8 V12.e4 m, map8 V12.e5 m, map8 V12.e6 m, map8 V12.e7 m,
    map8 V12.e8 m, map8 V12.e9 m, map8 V12.e10 m, map8 V12.e11 m⟩

/-- The cells of an `n` by `w` block of samples, row `y` at `base + y*stride` (43_idct.md R202, 45_resample.md R290). -/
def sampleCells (base stride n w : Nat) (value : Nat → Nat → Int) : List Host.Cell :=
  Memory.gridCells n w fun y x => [(base + y * stride + x, toByte (value y x))]

end Sys2Proof.Machine
end

