-- ==== Sys2Proof/Machine/Float.lean ====
section
/-! DEFINITION. IEEE 754 binary32 arithmetic as 00_scope.md R12 asks for it: each operation exactly rounded, to nearest with
ties to even, with subnormal numbers, infinities, NaN and signed zeros. No flag is kept (R12). A value is its
32-bit encoding. -/

namespace Sys2Proof.Machine

/-- What an encoding stands for. A finite value is `(-1)^neg * mant * 2^expo`. -/
inductive FloatVal where
  | nan
  | inf (neg : Bool)
  | fin (neg : Bool) (mant : Nat) (expo : Int)
  deriving DecidableEq, Repr

/-- The value of an encoding. -/
def floatVal (x : F32) : FloatVal :=
  let neg := Nat.ble 2147483648 x.toNat
  let e := x.toNat / 8388608 % 256
  let f := x.toNat % 8388608
  if e = 255 then (if f = 0 then .inf neg else .nan)
  else if e = 0 then .fin neg f (-149)
  else .fin neg (f + 8388608) ((e : Int) - 150)

/-- The one NaN the model produces. Its payload is not observable (93_implementation_defined.md I25, log 10). -/
def floatNan : F32 := 0x7FC00000#32

/-- The sign bit of an encoding. -/
def signBit (neg : Bool) : Nat := if neg then 2147483648 else 0

/-- Positive or negative infinity. -/
def floatInf (neg : Bool) : F32 := BitVec.ofNat 32 (signBit neg + 2139095040)

/-- Positive or negative zero. -/
def floatZero (neg : Bool) : F32 := BitVec.ofNat 32 (signBit neg)

/-- `m / 2^k` rounded to nearest, ties to even. -/
def roundEven (m k : Nat) : Nat :=
  let q := m / Nat.pow 2 k
  let twice := 2 * (m % Nat.pow 2 k)
  if twice < Nat.pow 2 k then q
  else if Nat.pow 2 k < twice then q + 1
  else q + q % 2

/-- The exponent of the last place of the result for a value `mant * 2^expo` with a nonzero `mant`: 24 significant bits,
fewer where the result is subnormal. -/
def lastPlace (mant : Nat) (expo : Int) : Int := max (expo + (Nat.log2 mant : Int) - 23) (-149)

/-- The binary32 value nearest to `(-1)^neg * mant * 2^expo`, ties to even. A magnitude that rounds to `2^128` or more gives
an infinity. -/
def roundFloat (neg : Bool) (mant : Nat) (expo : Int) : F32 :=
  if mant = 0 then floatZero neg
  else
    let p := lastPlace mant expo
    let digits := if p ≤ expo then mant * Nat.pow 2 (expo - p).toNat else roundEven mant (p - expo).toNat
    let bits := (p + 149).toNat * 8388608 + digits
    BitVec.ofNat 32 (signBit neg + min bits 2139095040)

/-- An integer with a sign apart. -/
def signed (neg : Bool) (m : Nat) : Int := if neg then -(m : Int) else (m : Int)

/-- `fadd(a, b)` (00_scope.md R12). -/
def fadd (a b : F32) : F32 :=
  match floatVal a, floatVal b with
  | .nan, _ => floatNan
  | _, .nan => floatNan
  | .inf s, .inf t => if s = t then floatInf s else floatNan
  | .inf s, .fin _ _ _ => floatInf s
  | .fin _ _ _, .inf t => floatInf t
  | .fin s m e, .fin t n f =>
    let p := min e f
    let sum := signed s m * (Nat.pow 2 (e - p).toNat : Nat) + signed t n * (Nat.pow 2 (f - p).toNat : Nat)
    if sum = 0 then floatZero (s && t) else roundFloat (decide (sum < 0)) sum.natAbs p

/-- The encoding with the other sign. -/
def fneg (a : F32) : F32 := a ^^^ 0x80000000#32

/-- `fsub(a, b)` (00_scope.md R12). -/
def fsub (a b : F32) : F32 := fadd a (fneg b)

/-- `fmul(a, b)` (00_scope.md R12). -/
def fmul (a b : F32) : F32 :=
  match floatVal a, floatVal b with
  | .nan, _ => floatNan
  | _, .nan => floatNan
  | .inf s, .inf t => floatInf (s != t)
  | .inf s, .fin t n _ => if n = 0 then floatNan else floatInf (s != t)
  | .fin s m _, .inf t => if m = 0 then floatNan else floatInf (s != t)
  | .fin s m e, .fin t n f => roundFloat (s != t) (m * n) (e + f)

/-- A quotient of two nonzero magnitudes with enough bits to round it: 50 more bits than the dividend, and a last bit that
says whether anything was left over. -/
def quotientBits (m n : Nat) : Nat :=
  2 * (m * Nat.pow 2 50 / n) + (if m * Nat.pow 2 50 % n = 0 then 0 else 1)

/-- `fdiv(a, b)` (00_scope.md R12). -/
def fdiv (a b : F32) : F32 :=
  match floatVal a, floatVal b with
  | .nan, _ => floatNan
  | _, .nan => floatNan
  | .inf _, .inf _ => floatNan
  | .inf s, .fin t _ _ => floatInf (s != t)
  | .fin s _ _, .inf t => floatZero (s != t)
  | .fin s m e, .fin t n f =>
    if n = 0 then (if m = 0 then floatNan else floatInf (s != t))
    else roundFloat (s != t) (quotientBits m n) (e - f - 51)

/-- The binary32 value of an integer, exact for every 16-bit integer (00_scope.md R12, 43_idct.md R201). -/
def floatOfInt (x : Int) : F32 := roundFloat (decide (x < 0)) x.natAbs 0

/-- `CVT(v)` (42_quant.md R187): truncation toward zero, with fixed results for the infinities and NaN. -/
def cvt (v : F32) : Int :=
  match floatVal v with
  | .nan => 0
  | .inf neg => if neg then -2147483648 else 2147483647
  | .fin neg m e => signed neg (if 0 ≤ e then m * Nat.pow 2 e.toNat else m / Nat.pow 2 (-e).toNat)

end Sys2Proof.Machine
end

