-- ==== Sys2Proof/Machine/Fdct.lean ====
section
/-! DEFINITION. The forward DCT family (41_fdct.md). -/

namespace Sys2Proof.Machine

/-- The level-shifted samples `d[y][x]` (41_fdct.md R150). -/
def fdctInput (s : State) : V8 (V8 Int) :=
  block8 fun y x => Memory.s8 s.mem (s.src0.toNat + y * s.ss0 + x) - 128

/-- Rows, then columns (41_fdct.md R151). The result is indexed by vertical frequency, then horizontal frequency. -/
def fdctPasses {α : Type} (f1 f2 : V8 α → V8 α) (d : V8 (V8 α)) : V8 (V8 α) :=
  transpose8 (map8 f2 (transpose8 (map8 f1 d)))

/-- `FI(e, 1)` and `FI(e, 2)` (41_fdct.md R153): `dc` scales the two outputs of the even part that need no multiplication, and
`n` is the descale of the rest. -/
def fdctIslow1d (dc : Int → Int) (n : Nat) (e : V8 Int) : V8 Int :=
  let t0 := e.e0 + e.e7
  let t7 := e.e0 - e.e7
  let t1 := e.e1 + e.e6
  let t6 := e.e1 - e.e6
  let t2 := e.e2 + e.e5
  let t5 := e.e2 - e.e5
  let t3 := e.e3 + e.e4
  let t4 := e.e3 - e.e4
  let t10 := t0 + t3
  let t13 := t0 - t3
  let t11 := t1 + t2
  let t12 := t1 - t2
  let zc := (t12 + t13) * 4433
  let z1 := t4 + t7
  let z2 := t5 + t6
  let z3 := t4 + t6
  let z4 := t5 + t7
  let z5 := (z3 + z4) * 9633
  let u4 := t4 * 2446
  let u5 := t5 * 16819
  let u6 := t6 * 25172
  let u7 := t7 * 12299
  let y1 := z1 * (-7373)
  let y2 := z2 * (-20995)
  let y3 := z3 * (-16069) + z5
  let y4 := z4 * (-3196) + z5
  { e0 := dc (t10 + t11)
    e1 := descale (u7 + y1 + y4) n
    e2 := descale (zc + t13 * 6270) n
    e3 := descale (u6 + y2 + y3) n
    e4 := dc (t10 - t11)
    e5 := descale (u5 + y2 + y4) n
    e6 := descale (zc - t12 * 15137) n
    e7 := descale (u4 + y1 + y3) n }

/-- The coefficients of `FDCT_ISLOW` (41_fdct.md R153): `n = 11` in pass 1 and 15 in pass 2. -/
def fdctIslowBlock (d : V8 (V8 Int)) : V8 (V8 Int) :=
  fdctPasses (fdctIslow1d (fun x => shl x 2) 11) (fdctIslow1d (fun x => descale x 2) 15) d

/-- `M(x, k) = (x * k) >> 8`, no bias (41_fdct.md R156, 43_idct.md R208). -/
def mulShift8 (x k : Int) : Int := asr (x * k) 8

/-- `FA(e)` (41_fdct.md R156). -/
def fdctIfast1d (e : V8 Int) : V8 Int :=
  let t0 := e.e0 + e.e7
  let t7 := e.e0 - e.e7
  let t1 := e.e1 + e.e6
  let t6 := e.e1 - e.e6
  let t2 := e.e2 + e.e5
  let t5 := e.e2 - e.e5
  let t3 := e.e3 + e.e4
  let t4 := e.e3 - e.e4
  let t10 := t0 + t3
  let t13 := t0 - t3
  let t11 := t1 + t2
  let t12 := t1 - t2
  let z1 := mulShift8 (t12 + t13) 181
  let u10 := t4 + t5
  let u11 := t5 + t6
  let u12 := t6 + t7
  let z5 := mulShift8 (u10 - u12) 98
  let z2 := mulShift8 u10 139 + z5
  let z4 := mulShift8 u12 334 + z5
  let z3 := mulShift8 u11 181
  let z11 := t7 + z3
  let z13 := t7 - z3
  { e0 := t10 + t11
    e1 := z11 + z4
    e2 := t13 + z1
    e3 := z13 - z2
    e4 := t10 - t11
    e5 := z13 + z2
    e6 := t13 - z1
    e7 := z11 - z4 }

/-- The coefficients of `FDCT_IFAST` (41_fdct.md R156), with no final shift (R158). -/
def fdctIfastBlock (d : V8 (V8 Int)) : V8 (V8 Int) := fdctPasses fdctIfast1d fdctIfast1d d

/-- `f32(0.707106781)` (41_fdct.md R160). -/
def k707 : F32 := 0x3F3504F3#32

/-- `f32(0.382683433)` (41_fdct.md R160). -/
def k383 : F32 := 0x3EC3EF15#32

/-- `f32(0.541196100)` (41_fdct.md R160). -/
def k541 : F32 := 0x3F0A8BD4#32

/-- `f32(1.306562965)` (41_fdct.md R160). -/
def k1307 : F32 := 0x3FA73D75#32

/-- `FF(e)` (41_fdct.md R159). -/
def fdctFloat1d (e : V8 F32) : V8 F32 :=
  let t0 := fadd e.e0 e.e7
  let t7 := fsub e.e0 e.e7
  let t1 := fadd e.e1 e.e6
  let t6 := fsub e.e1 e.e6
  let t2 := fadd e.e2 e.e5
  let t5 := fsub e.e2 e.e5
  let t3 := fadd e.e3 e.e4
  let t4 := fsub e.e3 e.e4
  let t10 := fadd t0 t3
  let t13 := fsub t0 t3
  let t11 := fadd t1 t2
  let t12 := fsub t1 t2
  let z1 := fmul (fadd t12 t13) k707
  let u10 := fadd t4 t5
  let u11 := fadd t5 t6
  let u12 := fadd t6 t7
  let z5 := fmul (fsub u10 u12) k383
  let z2 := fadd (fmul k541 u10) z5
  let z4 := fadd (fmul k1307 u12) z5
  let z3 := fmul u11 k707
  let z11 := fadd t7 z3
  let z13 := fsub t7 z3
  { e0 := fadd t10 t11
    e1 := fadd z11 z4
    e2 := fadd t13 z1
    e3 := fsub z13 z2
    e4 := fsub t10 t11
    e5 := fadd z13 z2
    e6 := fsub t13 z1
    e7 := fsub z11 z4 }

/-- The coefficients of `FDCT_FLOAT` (41_fdct.md R159). -/
def fdctFloatBlock (d : V8 (V8 Int)) : V8 (V8 F32) :=
  fdctPasses fdctFloat1d fdctFloat1d (map8 (map8 floatOfInt) d)

/-- The output of the integer variants (41_fdct.md R152). -/
def fdctIntCells (s : State) (c : V8 (V8 Int)) : List Host.Cell :=
  Memory.gridCells 8 8 fun u v => Memory.cellsLE (s.dst0.toNat + 2 * (8 * u + v)) (wrap16 (at8 c u v)) 2

/-- The output of the float variant (41_fdct.md R152). -/
def fdctFloatCells (s : State) (c : V8 (V8 F32)) : List Host.Cell :=
  Memory.gridCells 8 8 fun u v => Memory.cellsLE (s.dst0.toNat + 4 * (8 * u + v)) ((at8 c u v).toNat : Int) 4

/-- `FDCT_ISLOW` (41_fdct.md R153). -/
def execFdctIslow (s : State) : Host.Outcome State Fault Refusal :=
  runCommand (plan s .fdctIslow) anyData (fun s => fdctIntCells s (fdctIslowBlock (fdctInput s))) s

/-- `FDCT_IFAST` (41_fdct.md R156). -/
def execFdctIfast (s : State) : Host.Outcome State Fault Refusal :=
  runCommand (plan s .fdctIfast) anyData (fun s => fdctIntCells s (fdctIfastBlock (fdctInput s))) s

/-- `FDCT_FLOAT` (41_fdct.md R159). -/
def execFdctFloat (s : State) : Host.Outcome State Fault Refusal :=
  runCommand (plan s .fdctFloat) anyData (fun s => fdctFloatCells s (fdctFloatBlock (fdctInput s))) s

end Sys2Proof.Machine
end

