-- ==== Sys2Proof/Machine/Idct.lean ====
section
/-! DEFINITION. The inverse DCT family (43_idct.md). -/

namespace Sys2Proof.Machine

/-- The dequantized block `z[u][v]` of the integer variants (43_idct.md R200). -/
def dequantInt (s : State) : V8 (V8 Int) :=
  block8 fun u v =>
    Memory.i16 s.mem (s.src0.toNat + 2 * (8 * u + v)) * Memory.i16 s.mem (s.tbl.toNat + 2 * (8 * u + v))

/-- The dequantized block of `IDCT_FLOAT` (43_idct.md R201). -/
def dequantFloat (s : State) : V8 (V8 F32) :=
  block8 fun u v =>
    fmul (floatOfInt (Memory.i16 s.mem (s.src0.toNat + 2 * (8 * u + v)))) (Memory.f32 s.mem (s.tbl.toNat + 4 * (8 * u + v)))

/-- The output stage `LIMIT(x)` (43_idct.md R202). -/
def limit (mode : RangeLimit) (x : Int) : Int :=
  match mode with
  | .saturate => clamp (x + 128) 0 255
  | .mask10 => clamp ((x + 512) % 1024 - 512 + 128) 0 255

/-- Columns, then rows (43_idct.md R204). The result is indexed by row, then column. -/
def idctPasses {α : Type} (g1 g2 : V8 α → V8 α) (z : V8 (V8 α)) : V8 (V8 α) :=
  map8 g2 (transpose8 (map8 g1 (transpose8 z)))

/-- `GI(e, n)` (43_idct.md R205). -/
def idctIslow1d (n : Nat) (e : V8 Int) : V8 Int :=
  let zc := (e.e2 + e.e6) * 4433
  let a2 := zc - e.e6 * 15137
  let a3 := zc + e.e2 * 6270
  let a0 := shl (e.e0 + e.e4) 13
  let a1 := shl (e.e0 - e.e4) 13
  let t10 := a0 + a3
  let t13 := a0 - a3
  let t11 := a1 + a2
  let t12 := a1 - a2
  let z1 := e.e7 + e.e1
  let z2 := e.e5 + e.e3
  let z3 := e.e7 + e.e3
  let z4 := e.e5 + e.e1
  let z5 := (z3 + z4) * 9633
  let y1 := z1 * (-7373)
  let y2 := z2 * (-20995)
  let y3 := z3 * (-16069) + z5
  let y4 := z4 * (-3196) + z5
  let t0 := e.e7 * 2446 + y1 + y3
  let t1 := e.e5 * 16819 + y2 + y4
  let t2 := e.e3 * 25172 + y2 + y3
  let t3 := e.e1 * 12299 + y1 + y4
  { e0 := descale (t10 + t3) n
    e1 := descale (t11 + t2) n
    e2 := descale (t12 + t1) n
    e3 := descale (t13 + t0) n
    e4 := descale (t13 - t0) n
    e5 := descale (t12 - t1) n
    e6 := descale (t11 - t2) n
    e7 := descale (t10 - t3) n }

/-- The samples of `IDCT_ISLOW` before the output stage (43_idct.md R206). -/
def idctIslowBlock (z : V8 (V8 Int)) : V8 (V8 Int) := idctPasses (idctIslow1d 11) (idctIslow1d 18) z

/-- `GA(e)` (43_idct.md R208). -/
def idctIfast1d (e : V8 Int) : V8 Int :=
  let t10 := e.e0 + e.e4
  let t11 := e.e0 - e.e4
  let t13 := e.e2 + e.e6
  let t12 := mulShift8 (e.e2 - e.e6) 362 - t13
  let t0 := t10 + t13
  let t3 := t10 - t13
  let t1 := t11 + t12
  let t2 := t11 - t12
  let z13 := e.e5 + e.e3
  let z10 := e.e5 - e.e3
  let z11 := e.e1 + e.e7
  let z12 := e.e1 - e.e7
  let t7 := z11 + z13
  let u11 := mulShift8 (z11 - z13) 362
  let z5 := mulShift8 (z10 + z12) 473
  let u10 := mulShift8 z12 277 - z5
  let u12 := mulShift8 z10 (-669) + z5
  let t6 := u12 - t7
  let t5 := u11 - t6
  let t4 := u10 + t5
  { e0 := t0 + t7
    e1 := t1 + t6
    e2 := t2 + t5
    e3 := t3 - t4
    e4 := t3 + t4
    e5 := t2 - t5
    e6 := t1 - t6
    e7 := t0 - t7 }

/-- `FINAL(x)` (43_idct.md R209, R210). -/
def ifastFinal (mode : IfastRounding) (x : Int) : Int :=
  match mode with
  | .bias => descale x 5
  | .truncate => asr x 5

/-- The outputs of `GA` in both passes (43_idct.md R209). -/
def idctIfastBlock (z : V8 (V8 Int)) : V8 (V8 Int) := idctPasses idctIfast1d idctIfast1d z

/-- `f32(1.414213562)` (43_idct.md R211). -/
def k1414 : F32 := 0x3FB504F3#32

/-- `f32(1.847759065)` (43_idct.md R211). -/
def k1848 : F32 := 0x3FEC835E#32

/-- `f32(1.082392200)` (43_idct.md R211). -/
def k1082 : F32 := 0x3F8A8BD4#32

/-- `f32(2.613125930)` (43_idct.md R211). -/
def k2613 : F32 := 0x40273D75#32

/-- `f32(128.5)`, the level shift and the rounding half (43_idct.md R212). -/
def levelBias : F32 := 0x43008000#32

/-- `GF(e)` (43_idct.md R211). -/
def idctFloat1d (e : V8 F32) : V8 F32 :=
  let t10 := fadd e.e0 e.e4
  let t11 := fsub e.e0 e.e4
  let t13 := fadd e.e2 e.e6
  let t12 := fsub (fmul (fsub e.e2 e.e6) k1414) t13
  let t0 := fadd t10 t13
  let t3 := fsub t10 t13
  let t1 := fadd t11 t12
  let t2 := fsub t11 t12
  let z13 := fadd e.e5 e.e3
  let z10 := fsub e.e5 e.e3
  let z11 := fadd e.e1 e.e7
  let z12 := fsub e.e1 e.e7
  let t7 := fadd z11 z13
  let u11 := fmul (fsub z11 z13) k1414
  let z5 := fmul (fadd z10 z12) k1848
  let u10 := fsub z5 (fmul z12 k1082)
  let u12 := fsub z5 (fmul z10 k2613)
  let t6 := fsub u12 t7
  let t5 := fsub u11 t6
  let t4 := fsub u10 t5
  { e0 := fadd t0 t7
    e1 := fadd t1 t6
    e2 := fadd t2 t5
    e3 := fadd t3 t4
    e4 := fsub t3 t4
    e5 := fsub t2 t5
    e6 := fsub t1 t6
    e7 := fsub t0 t7 }

/-- Pass 2 of `IDCT_FLOAT`: `128.5` is added to the first element of a row (43_idct.md R212). -/
def idctFloatRow (e : V8 F32) : V8 F32 := idctFloat1d { e with e0 := fadd e.e0 levelBias }

/-- The outputs of `IDCT_FLOAT` before `FOUT` (43_idct.md R212). -/
def idctFloatBlock (z : V8 (V8 F32)) : V8 (V8 F32) := idctPasses idctFloat1d idctFloatRow z

/-- `FOUT(v)` (43_idct.md R213). -/
def fout (mode : RangeLimit) (v : F32) : Int :=
  match mode with
  | .saturate => clamp (cvt v) 0 255
  | .mask10 =>
    let j := cvt v % 1024
    if j < 256 then j else if j < 640 then 255 else 0

/-- `H2(e)` (43_idct.md R215). -/
def idct2Odd (e : V8 Int) : Int := -e.e7 * 5906 + e.e5 * 6967 - e.e3 * 10426 + e.e1 * 29692

/-- One direction of the 2 by 2 network (43_idct.md R215): the two outputs before the descale. -/
def idct2Pair (e : V8 Int) : Int × Int := (shl e.e0 15 + idct2Odd e, shl e.e0 15 - idct2Odd e)

/-- The samples of `IDCT_2X2` before the output stage (43_idct.md R215). The network reads only elements 0, 1, 3, 5 and 7, so
columns 2, 4 and 6 of the workspace affect nothing. -/
def idct2Block (z : V8 (V8 Int)) (y x : Nat) : Int :=
  let cols := map8 (fun e => let p := idct2Pair e; (descale p.1 13, descale p.2 13)) (transpose8 z)
  let row := if y = 0 then map8 Prod.fst cols else map8 Prod.snd cols
  let p := idct2Pair row
  descale (if x = 0 then p.1 else p.2) 20

/-- `O0(e)` (43_idct.md R218). -/
def idct4Odd0 (e : V8 Int) : Int := -e.e7 * 1730 + e.e5 * 11893 - e.e3 * 17799 + e.e1 * 8697

/-- `O2(e)` (43_idct.md R218). -/
def idct4Odd2 (e : V8 Int) : Int := -e.e7 * 4176 - e.e5 * 4926 + e.e3 * 7373 + e.e1 * 20995

/-- One direction of the 4 by 4 network (43_idct.md R218), output `k` of 0 to 3. -/
def idct4Out (n : Nat) (e : V8 Int) (k : Nat) : Int :=
  let t0 := shl e.e0 14
  let t2 := e.e2 * 15137 - e.e6 * 6270
  let t10 := t0 + t2
  let t12 := t0 - t2
  let o0 := idct4Odd0 e
  let o2 := idct4Odd2 e
  match k with
  | 0 => descale (t10 + o2) n
  | 1 => descale (t12 + o0) n
  | 2 => descale (t12 - o0) n
  | _ => descale (t10 - o2) n

/-- The samples of `IDCT_4X4` before the output stage (43_idct.md R218). The network reads no element 4, so column 4 of the
workspace affects nothing. -/
def idct4Block (z : V8 (V8 Int)) (y x : Nat) : Int :=
  idct4Out 19 (map8 (fun e => idct4Out 12 e y) (transpose8 z)) x

/-- The 6 by 6 low-frequency corner of a block (43_idct.md R221). -/
def corner6 (z : V8 (V8 Int)) : V6 (V6 Int) := tabulate6 fun u => tabulate6 fun v => at8 z u v

/-- Pass 1 of the 6 by 6 network, on one column (43_idct.md R221). -/
def idct6Column (e : V6 Int) : V6 Int :=
  let b0 := shl e.e0 13 + 1024
  let b10 := e.e4 * 5793
  let b1 := b0 + b10
  let t11 := asr (b0 - b10 - b10) 11
  let c0 := e.e2 * 10033
  let t10 := b1 + c0
  let t12 := b1 - c0
  let d1 := (e.e1 + e.e5) * 2998
  let t0 := d1 + shl (e.e1 + e.e3) 13
  let t2 := d1 + shl (e.e5 - e.e3) 13
  let t1 := shl (e.e1 - e.e3 - e.e5) 2
  { e0 := asr (t10 + t0) 11
    e1 := t11 + t1
    e2 := asr (t12 + t2) 11
    e3 := asr (t12 - t2) 11
    e4 := t11 - t1
    e5 := asr (t10 - t0) 11 }

/-- Pass 2 of the 6 by 6 network, on one row (43_idct.md R221). -/
def idct6Row (e : V6 Int) : V6 Int :=
  let b0 := shl (e.e0 + 16) 13
  let b10 := e.e4 * 5793
  let b1 := b0 + b10
  let t11 := b0 - b10 - b10
  let c0 := e.e2 * 10033
  let t10 := b1 + c0
  let t12 := b1 - c0
  let d1 := (e.e1 + e.e5) * 2998
  let t0 := d1 + shl (e.e1 + e.e3) 13
  let t2 := d1 + shl (e.e5 - e.e3) 13
  let t1 := shl (e.e1 - e.e3 - e.e5) 13
  { e0 := asr (t10 + t0) 18
    e1 := asr (t11 + t1) 18
    e2 := asr (t12 + t2) 18
    e3 := asr (t12 - t2) 18
    e4 := asr (t11 - t1) 18
    e5 := asr (t10 - t0) 18 }

/-- The samples of `IDCT_6X6` before the output stage (43_idct.md R221). -/
def idct6Block (z : V8 (V8 Int)) : V6 (V6 Int) :=
  map6 idct6Row (transpose6 (map6 idct6Column (transpose6 (corner6 z))))

/-- `G12(e, z3)` (43_idct.md R224). -/
def idct12Sums (e : V8 Int) (z3 : Int) : V12 Int :=
  let a4 := e.e4 * 10033
  let a10 := z3 + a4
  let a11 := z3 - a4
  let b4 := e.e2 * 11190
  let b1 := shl e.e2 13
  let b2 := shl e.e6 13
  let c12 := b1 - b2
  let t21 := z3 + c12
  let t24 := z3 - c12
  let d12 := b4 + b2
  let t20 := a10 + d12
  let t25 := a10 - d12
  let f12 := b4 - b1 - b2
  let t22 := a11 + f12
  let t23 := a11 - f12
  let o11 := e.e3 * 10703
  let o14 := -e.e3 * 4433
  let g10 := e.e1 + e.e5
  let g15 := (g10 + e.e7) * 7053
  let g12 := g15 + g10 * 2139
  let t10 := g12 + o11 + e.e1 * 2295
  let g13 := -(e.e5 + e.e7) * 8565
  let t12 := g12 + g13 + o14 - e.e5 * 12112
  let t13 := g13 + g15 - o11 + e.e7 * 12998
  let t15 := g15 + o14 - e.e1 * 5540 - e.e7 * 16244
  let h1 := e.e1 - e.e7
  let h2 := e.e3 - e.e5
  let h3 := (h1 + h2) * 4433
  let t11 := h3 + h1 * 6270
  let t14 := h3 - h2 * 15137
  { e0 := t20 + t10
    e1 := t21 + t11
    e2 := t22 + t12
    e3 := t23 + t13
    e4 := t24 + t14
    e5 := t25 + t15
    e6 := t25 - t15
    e7 := t24 - t14
    e8 := t23 - t13
    e9 := t22 - t12
    e10 := t21 - t11
    e11 := t20 - t10 }

/-- Pass 1 of the 12 by 12 network, on one column (43_idct.md R224). -/
def idct12Column (e : V8 Int) : V12 Int := map12 (fun r => asr r 11) (idct12Sums e (shl e.e0 13 + 1024))

/-- Pass 2 of the 12 by 12 network, on one row (43_idct.md R224). -/
def idct12Row (e : V8 Int) : V12 Int := map12 (fun r => asr r 18) (idct12Sums e (shl (e.e0 + 16) 13))

/-- The samples of `IDCT_12X12` before the output stage (43_idct.md R224). -/
def idct12Block (z : V8 (V8 Int)) : V12 (V12 Int) := map12 idct12Row (transpose12 (map8 idct12Column (transpose8 z)))

/-- The output of an inverse DCT: an `n` by `n` block of samples (43_idct.md R202). -/
def idctCells (n : Nat) (s : State) (sample : Nat → Nat → Int) : List Host.Cell :=
  sampleCells s.dst0.toNat s.ds0 n n sample

/-- The samples of `IDCT_ISLOW` (43_idct.md R206). -/
def idctIslowCells (s : State) : List Host.Cell :=
  let b := idctIslowBlock (dequantInt s)
  idctCells 8 s fun y x => limit s.cfg.rangeLimit (at8 b y x)

/-- The samples of `IDCT_IFAST` (43_idct.md R209). -/
def idctIfastCells (s : State) : List Host.Cell :=
  let b := idctIfastBlock (dequantInt s)
  idctCells 8 s fun y x => limit s.cfg.rangeLimit (ifastFinal s.cfg.ifastRounding (at8 b y x))

/-- The samples of `IDCT_FLOAT` (43_idct.md R212). -/
def idctFloatCells (s : State) : List Host.Cell :=
  let b := idctFloatBlock (dequantFloat s)
  idctCells 8 s fun y x => fout s.cfg.rangeLimit (at8 b y x)

/-- The samples of `IDCT_2X2` (43_idct.md R215). -/
def idct2x2Cells (s : State) : List Host.Cell :=
  let z := dequantInt s
  idctCells 2 s fun y x => limit s.cfg.rangeLimit (idct2Block z y x)

/-- The samples of `IDCT_4X4` (43_idct.md R218). -/
def idct4x4Cells (s : State) : List Host.Cell :=
  let z := dequantInt s
  idctCells 4 s fun y x => limit s.cfg.rangeLimit (idct4Block z y x)

/-- The samples of `IDCT_6X6` (43_idct.md R221). -/
def idct6x6Cells (s : State) : List Host.Cell :=
  let b := idct6Block (dequantInt s)
  idctCells 6 s fun y x => limit s.cfg.rangeLimit (get6 (get6 b y) x)

/-- The samples of `IDCT_12X12` (43_idct.md R224). -/
def idct12x12Cells (s : State) : List Host.Cell :=
  let b := idct12Block (dequantInt s)
  idctCells 12 s fun y x => limit s.cfg.rangeLimit (get12 (get12 b y) x)

/-- `IDCT_ISLOW` (43_idct.md R206). -/
def execIdctIslow (s : State) : Host.Outcome State Fault Refusal :=
  runCommand (plan s .idctIslow) anyData idctIslowCells s

/-- `IDCT_IFAST` (43_idct.md R209). -/
def execIdctIfast (s : State) : Host.Outcome State Fault Refusal :=
  runCommand (plan s .idctIfast) anyData idctIfastCells s

/-- `IDCT_FLOAT` (43_idct.md R212). -/
def execIdctFloat (s : State) : Host.Outcome State Fault Refusal :=
  runCommand (plan s .idctFloat) anyData idctFloatCells s

/-- `IDCT_2X2` (43_idct.md R215). -/
def execIdct2x2 (s : State) : Host.Outcome State Fault Refusal :=
  runCommand (plan s .idct2x2) anyData idct2x2Cells s

/-- `IDCT_4X4` (43_idct.md R218). -/
def execIdct4x4 (s : State) : Host.Outcome State Fault Refusal :=
  runCommand (plan s .idct4x4) anyData idct4x4Cells s

/-- `IDCT_6X6` (43_idct.md R221). -/
def execIdct6x6 (s : State) : Host.Outcome State Fault Refusal :=
  runCommand (plan s .idct6x6) anyData idct6x6Cells s

/-- `IDCT_12X12` (43_idct.md R224). -/
def execIdct12x12 (s : State) : Host.Outcome State Fault Refusal :=
  runCommand (plan s .idct12x12) anyData idct12x12Cells s

end Sys2Proof.Machine
end

