-- ==== Sys2Proof/Machine/Quant.lean ====
section
/-! DEFINITION. The quantizer family (42_quant.md). -/

namespace Sys2Proof.Machine

/-- One entry of the integer quantizer's table: reciprocal, correction, shift (42_quant.md R180). -/
structure QuantEntry where
  recip : Int
  corr : Int
  shift : Int
  deriving DecidableEq, Repr

/-- Entry `i` of the table at `t` (42_quant.md R180). -/
def readEntry (m : Memory) (t i : Nat) : QuantEntry :=
  { recip := (Memory.u16 m (t + 2 * i) : Int)
    corr := (Memory.u16 m (t + 128 + 2 * i) : Int)
    shift := Memory.i16 m (t + 256 + 2 * i) }

/-- `p >> s` for `s >= 0`, `p << -s` for `s < 0` (42_quant.md R182). -/
def shiftBy (p s : Int) : Int := if 0 ≤ s then asr p s.toNat else shl p (-s).toNat

/-- The quantized coefficient before it is stored (42_quant.md R182). -/
def quantInt (q : QuantEntry) (x : Int) : Int :=
  let m := (x.natAbs : Int)
  let p := (m + q.corr) * q.recip
  let y := shiftBy p (q.shift + 16)
  if x < 0 then -y else y

/-- The output of `QUANT_INT` (42_quant.md R182). -/
def quantIntCells (s : State) : List Host.Cell :=
  Memory.gridCells 64 1 fun i _ =>
    Memory.cellsLE (s.dst0.toNat + 2 * i)
      (wrap16 (quantInt (readEntry s.mem s.tbl.toNat i) (Memory.i16 s.mem (s.src0.toNat + 2 * i)))) 2

/-- `QUANT_INT` (42_quant.md R182). -/
def execQuantInt (s : State) : Host.Outcome State Fault Refusal :=
  runCommand (plan s .quantInt) anyData quantIntCells s

/-- The quotient `t` (42_quant.md R186, R188). -/
def floatQuotient (mode : FloatQuant) (w f : F32) : F32 :=
  match mode with
  | .divide => fdiv w f
  | .multiply => fmul w f

/-- `f32(16384.5)` (42_quant.md R186). -/
def roundingBias : F32 := 0x46800100#32

/-- The quantized coefficient before it is stored (42_quant.md R186, R187). -/
def quantFloat (mode : FloatQuant) (w f : F32) : Int := cvt (fadd (floatQuotient mode w f) roundingBias) - 16384

/-- The output of `QUANT_FLOAT` (42_quant.md R186). -/
def quantFloatCells (s : State) : List Host.Cell :=
  Memory.gridCells 64 1 fun i _ =>
    Memory.cellsLE (s.dst0.toNat + 2 * i)
      (wrap16 (quantFloat s.cfg.floatQuant (Memory.f32 s.mem (s.src0.toNat + 4 * i)) (Memory.f32 s.mem (s.tbl.toNat + 4 * i)))) 2

/-- `QUANT_FLOAT` (42_quant.md R186). -/
def execQuantFloat (s : State) : Host.Outcome State Fault Refusal :=
  runCommand (plan s .quantFloat) anyData quantFloatCells s

/-- The entry built from a divisor (42_quant.md R189). -/
def prepareEntry (d : Nat) : QuantEntry :=
  if d = 1 then ⟨1, 0, -16⟩
  else
    let b := Nat.log2 d
    let r := 16 + b
    let fq := Nat.pow 2 r / d
    let fr := Nat.pow 2 r % d
    let c := d / 2
    if fr = 0 then ⟨((fq / 2 : Nat) : Int), (c : Int), (r : Int) - 17⟩
    else if fr ≤ c then ⟨(fq : Int), (c : Int) + 1, (r : Int) - 16⟩
    else ⟨(fq : Int) + 1, (c : Int), (r : Int) - 16⟩

/-- Divisor `i` (42_quant.md R189). -/
def divisor (s : State) (i : Nat) : Nat := Memory.u16 s.mem (s.src0.toNat + 2 * i)

/-- No divisor is 0 (42_quant.md R190). -/
def divisorsOk (s : State) : Bool := (List.range 64).all fun i => divisor s i != 0

/-- The three arrays of a table at `t`, from the entry of each element (42_quant.md R180, R189). -/
def tableCells (t : Nat) (entry : Nat → QuantEntry) : List Host.Cell :=
  Memory.gridCells 64 1 fun i _ =>
    Memory.cellsLE (t + 2 * i) (entry i).recip 2 ++ Memory.cellsLE (t + 128 + 2 * i) (entry i).corr 2 ++
      Memory.cellsLE (t + 256 + 2 * i) (entry i).shift 2

/-- The output of `QTBL_PREP` (42_quant.md R189). -/
def qtblPrepCells (s : State) : List Host.Cell := tableCells s.dst0.toNat fun i => prepareEntry (divisor s i)

/-- `QTBL_PREP` (42_quant.md R189, R190). -/
def execQtblPrep (s : State) : Host.Outcome State Fault Refusal :=
  runCommand (plan s .qtblPrep) divisorsOk qtblPrepCells s

end Sys2Proof.Machine
end

