-- ==== Sys2Proof/Machine/Color.lean ====
section
/-! DEFINITION. The colour conversion family (44_color.md). -/

namespace Sys2Proof.Machine

/-- Three samples of one pixel: `R, G, B` or `Y, Cb, Cr`. -/
structure Triple where
  a : Int
  b : Int
  c : Int
  deriving DecidableEq, Repr

/-- `Y` of a pixel `(R, G, B)` (44_color.md R251). -/
def lumaOf (p : Triple) : Int := asr (19595 * p.a + 38470 * p.b + 7471 * p.c + 32768) 16

/-- `Cb` of a pixel `(R, G, B)` (44_color.md R251). -/
def cbOf (p : Triple) : Int := asr (-11059 * p.a - 21709 * p.b + 32768 * p.c + 8388608 + 32767) 16

/-- `Cr` of a pixel `(R, G, B)` (44_color.md R251). -/
def crOf (p : Triple) : Int := asr (32768 * p.a - 27439 * p.b - 5329 * p.c + 8388608 + 32767) 16

/-- The forward pixel function (44_color.md R251). -/
def toYcc (p : Triple) : Triple := ⟨lumaOf p, cbOf p, crOf p⟩

/-- The inverse pixel function, from `(Y, Cb, Cr)` (44_color.md R257). -/
def toRgb (p : Triple) : Triple :=
  let xr := p.c - 128
  let xb := p.b - 128
  let dR := asr (91881 * xr + 32768) 16
  let dB := asr (116130 * xb + 32768) 16
  let dG := asr (-22554 * xb - 46802 * xr + 32768) 16
  ⟨clamp (p.a + dR) 0 255, clamp (p.a + dG) 0 255, clamp (p.a + dB) 0 255⟩

/-- The `(R, G, B)` samples of the pixel at an address (44_color.md R252). -/
def readPixel (m : Memory) (l : Layout) (addr : Nat) : Triple :=
  ⟨Memory.s8 m (addr + redOffset l), Memory.s8 m (addr + greenOffset l), Memory.s8 m (addr + blueOffset l)⟩

/-- `PUTPIX` (44_color.md R259). -/
def putPixel (filler : Byte) (l : Layout) (addr : Nat) (p : Triple) : List Host.Cell :=
  [(addr + redOffset l, toByte p.a), (addr + greenOffset l, toByte p.b), (addr + blueOffset l, toByte p.c)] ++
    match fillerOffset l with
    | some k => [(addr + k, filler)]
    | none => []

/-- `PACK565` (44_color.md R260). -/
def pack565 (p : Triple) : Int := asr p.a 3 * 2048 + asr p.b 2 * 32 + asr p.c 3

/-- Pixel `j` of input row `r` of an RGB-family image (44_color.md R252). -/
def inputPixel (s : State) (l : Layout) (r j : Nat) : Triple :=
  readPixel s.mem l (s.src0.toNat + r * s.ss0 + j * pixelBytes l)

/-- `(Y, Cb, Cr)` at row `r`, column `j` of luma and row `rc`, column `jc` of chroma (44_color.md R258, 45_resample.md R311). -/
def planeTriple (s : State) (r j rc jc : Nat) : Triple :=
  ⟨Memory.s8 s.mem (s.src0.toNat + r * s.ss0 + j), Memory.s8 s.mem (s.src1.toNat + rc * s.ss1 + jc),
    Memory.s8 s.mem (s.src2.toNat + rc * s.ss1 + jc)⟩

/-- The output of `RGB_YCC` (44_color.md R253). -/
def rgbYccCells (l : Layout) (s : State) : List Host.Cell :=
  Memory.gridCells s.rowCount s.w0 fun r j =>
    let p := toYcc (inputPixel s l r j)
    [(s.dst0.toNat + r * s.ds0 + j, toByte p.a), (s.dst1.toNat + r * s.ds1 + j, toByte p.b),
      (s.dst2.toNat + r * s.ds1 + j, toByte p.c)]

/-- `RGB_YCC` (44_color.md R253). -/
def execRgbYcc (l : Layout) (s : State) : Host.Outcome State Fault Refusal :=
  runCommand (plan s (.rgbYcc l)) anyData (rgbYccCells l) s

/-- The output of `RGB_GRAY` (44_color.md R255). -/
def rgbGrayCells (l : Layout) (s : State) : List Host.Cell :=
  sampleCells s.dst0.toNat s.ds0 s.rowCount s.w0 fun r j => lumaOf (inputPixel s l r j)

/-- `RGB_GRAY` (44_color.md R255). -/
def execRgbGray (l : Layout) (s : State) : Host.Outcome State Fault Refusal :=
  runCommand (plan s (.rgbGray l)) anyData (rgbGrayCells l) s

/-- The address of output pixel `j` of row `r` (44_color.md R252). -/
def pixelAddress (s : State) (l : Layout) (r j : Nat) : Nat := s.dst0.toNat + r * s.ds0 + j * pixelBytes l

/-- The output of `YCC_RGB` (44_color.md R258). -/
def yccRgbCells (l : Layout) (s : State) : List Host.Cell :=
  Memory.gridCells s.rowCount s.w0 fun r j =>
    putPixel s.cfg.filler l (pixelAddress s l r j) (toRgb (planeTriple s r j r j))

/-- `YCC_RGB` (44_color.md R258). -/
def execYccRgb (l : Layout) (s : State) : Host.Outcome State Fault Refusal :=
  runCommand (plan s (.yccRgb l)) anyData (yccRgbCells l) s

/-- The output of `YCC_RGB565` (44_color.md R261). -/
def yccRgb565Cells (s : State) : List Host.Cell :=
  Memory.gridCells s.rowCount s.w0 fun r j =>
    Memory.cellsLE (s.dst0.toNat + r * s.ds0 + 2 * j) (pack565 (toRgb (planeTriple s r j r j))) 2

/-- `YCC_RGB565` (44_color.md R261). -/
def execYccRgb565 (s : State) : Host.Outcome State Fault Refusal :=
  runCommand (plan s .yccRgb565) anyData yccRgb565Cells s

end Sys2Proof.Machine
end

