-- ==== Sys2Proof/Machine/Resample.lean ====
section
/-! DEFINITION. The chroma resampling family (45_resample.md). -/

namespace Sys2Proof.Machine

/-- `in[r][j]` (45_resample.md R290). -/
def inSample (s : State) (r j : Nat) : Int := Memory.s8 s.mem (s.src0.toNat + r * s.ss0 + j)

/-- `ext[r][j]`, the right edge replicated (45_resample.md R291). -/
def extSample (s : State) (r j : Nat) : Int := inSample s r (min j (s.w0 - 1))

/-- A sample of input row `k - 1`, where row 0 of this function is the context row above the first (45_resample.md R303). -/
def contextSample (s : State) (k j : Nat) : Int := Memory.s8 s.mem ((s.src0.toNat + k * s.ss0 + j) - s.ss0)

/-- `out[r][j]` of `DOWN_H2V1` (45_resample.md R292). -/
def downH2v1Sample (s : State) (r j : Nat) : Int :=
  asr (extSample s r (2 * j) + extSample s r (2 * j + 1) + ((j % 2 : Nat) : Int)) 1

/-- The output of `DOWN_H2V1` (45_resample.md R292). -/
def downH2v1Cells (s : State) : List Host.Cell :=
  sampleCells s.dst0.toNat s.ds0 s.rowCount s.w1 (downH2v1Sample s)

/-- `DOWN_H2V1` (45_resample.md R292). -/
def execDownH2v1 (s : State) : Host.Outcome State Fault Refusal :=
  runCommand (plan s .downH2v1) anyData downH2v1Cells s

/-- `out[r][j]` of `DOWN_H2V2` (45_resample.md R294). -/
def downH2v2Sample (s : State) (r j : Nat) : Int :=
  let bias : Int := if j % 2 = 0 then 1 else 2
  asr (extSample s (2 * r) (2 * j) + extSample s (2 * r) (2 * j + 1) + extSample s (2 * r + 1) (2 * j) +
    extSample s (2 * r + 1) (2 * j + 1) + bias) 2

/-- The output of `DOWN_H2V2` (45_resample.md R294). -/
def downH2v2Cells (s : State) : List Host.Cell :=
  sampleCells s.dst0.toNat s.ds0 s.rowCount s.w1 (downH2v2Sample s)

/-- `DOWN_H2V2` (45_resample.md R294). -/
def execDownH2v2 (s : State) : Host.Outcome State Fault Refusal :=
  runCommand (plan s .downH2v2) anyData downH2v2Cells s

/-- The output of `UP_H2V1_BOX` (45_resample.md R297). -/
def upH2v1BoxCells (s : State) : List Host.Cell :=
  sampleCells s.dst0.toNat s.ds0 s.rowCount (2 * s.w0) fun r i => inSample s r (i / 2)

/-- `UP_H2V1_BOX` (45_resample.md R297). -/
def execUpH2v1Box (s : State) : Host.Outcome State Fault Refusal :=
  runCommand (plan s .upH2v1Box) anyData upH2v1BoxCells s

/-- The output of `UP_H2V2_BOX` (45_resample.md R298). -/
def upH2v2BoxCells (s : State) : List Host.Cell :=
  sampleCells s.dst0.toNat s.ds0 (2 * s.rowCount) (2 * s.w0) fun r i => inSample s (r / 2) (i / 2)

/-- `UP_H2V2_BOX` (45_resample.md R298). -/
def execUpH2v2Box (s : State) : Host.Outcome State Fault Refusal :=
  runCommand (plan s .upH2v2Box) anyData upH2v2BoxCells s

/-- Output `i` of `FH(a, k, bL, bR, edge)` on a row of `w` values (45_resample.md R300): the two ends go through `first` and
`last`, an even output is blended with the value before, an odd one with the value after. -/
def fancyRow (a : Nat → Int) (w k : Nat) (bL bR : Int) (first last : Int → Int) (i : Nat) : Int :=
  if i = 0 then first (a 0)
  else if i + 1 = 2 * w then last (a (w - 1))
  else if i % 2 = 0 then asr (3 * a (i / 2) + a (i / 2 - 1) + bL) k
  else asr (3 * a (i / 2) + a (i / 2 + 1) + bR) k

/-- `out[r][i]` of `UP_H2V1_FANCY` (45_resample.md R301). -/
def upH2v1FancySample (s : State) (r i : Nat) : Int :=
  fancyRow (inSample s r) s.w0 2 1 2 (fun x => x) (fun x => x) i

/-- The output of `UP_H2V1_FANCY` (45_resample.md R301). -/
def upH2v1FancyCells (s : State) : List Host.Cell :=
  sampleCells s.dst0.toNat s.ds0 s.rowCount (2 * s.w0) (upH2v1FancySample s)

/-- `UP_H2V1_FANCY` (45_resample.md R301). -/
def execUpH2v1Fancy (s : State) : Host.Outcome State Fault Refusal :=
  runCommand (plan s .upH2v1Fancy) anyData upH2v1FancyCells s

/-- `3*in[r][j] + in[nb][j]` for output row `y`, where `r = y / 2` and the neighbour is the row above for an even output row and
the row below for an odd one (45_resample.md R304, R307). -/
def columnSum (s : State) (y j : Nat) : Int :=
  3 * contextSample s (y / 2 + 1) j + contextSample s (if y % 2 = 0 then y / 2 else y / 2 + 2) j

/-- `out[y][j]` of `UP_H1V2_FANCY` (45_resample.md R304): bias 1 in the upper output row, 2 in the lower. -/
def upH1v2FancySample (s : State) (y j : Nat) : Int :=
  asr (columnSum s y j + (if y % 2 = 0 then 1 else 2)) 2

/-- The output of `UP_H1V2_FANCY` (45_resample.md R304). -/
def upH1v2FancyCells (s : State) : List Host.Cell :=
  sampleCells s.dst0.toNat s.ds0 (2 * s.rowCount) s.w0 (upH1v2FancySample s)

/-- `UP_H1V2_FANCY` (45_resample.md R304). -/
def execUpH1v2Fancy (s : State) : Host.Outcome State Fault Refusal :=
  runCommand (plan s .upH1v2Fancy) anyData upH1v2FancyCells s

/-- `out[y][i]` of `UP_H2V2_FANCY` (45_resample.md R307). -/
def upH2v2FancySample (s : State) (y i : Nat) : Int :=
  fancyRow (columnSum s y) s.w0 4 8 7 (fun x => asr (4 * x + 8) 4) (fun x => asr (4 * x + 7) 4) i

/-- The output of `UP_H2V2_FANCY` (45_resample.md R307). -/
def upH2v2FancyCells (s : State) : List Host.Cell :=
  sampleCells s.dst0.toNat s.ds0 (2 * s.rowCount) (2 * s.w0) (upH2v2FancySample s)

/-- `UP_H2V2_FANCY` (45_resample.md R307). -/
def execUpH2v2Fancy (s : State) : Host.Outcome State Fault Refusal :=
  runCommand (plan s .upH2v2Fancy) anyData upH2v2FancyCells s

/-- The output of `MERGED_H2V1` (45_resample.md R311). -/
def mergedH2v1Cells (l : Layout) (s : State) : List Host.Cell :=
  Memory.gridCells s.rowCount s.w0 fun r j =>
    putPixel s.cfg.filler l (pixelAddress s l r j) (toRgb (planeTriple s r j r (j / 2)))

/-- `MERGED_H2V1` (45_resample.md R311). -/
def execMergedH2v1 (l : Layout) (s : State) : Host.Outcome State Fault Refusal :=
  runCommand (plan s (.mergedH2v1 l)) anyData (mergedH2v1Cells l) s

/-- The output of `MERGED_H2V2` (45_resample.md R312): chroma row `y / 2` serves output row `y`. -/
def mergedH2v2Cells (l : Layout) (s : State) : List Host.Cell :=
  Memory.gridCells (2 * s.rowCount) s.w0 fun y j =>
    putPixel s.cfg.filler l (pixelAddress s l y j) (toRgb (planeTriple s y j (y / 2) (j / 2)))

/-- `MERGED_H2V2` (45_resample.md R312). -/
def execMergedH2v2 (l : Layout) (s : State) : Host.Outcome State Fault Refusal :=
  runCommand (plan s (.mergedH2v2 l)) anyData (mergedH2v2Cells l) s

end Sys2Proof.Machine
end

