-- ==== Sys2Proof/Machine/Dispatch.lean ====
section
/-! DEFINITION. The command step of each decoded command, one arm for each constructor of `Instr`. -/

namespace Sys2Proof.Machine

def exec (i : Instr) (s : State) : Host.Outcome State Fault Refusal :=
  match i with
  | .nop => Sys2Proof.Machine.execNop s
  | .fdctIslow => Sys2Proof.Machine.execFdctIslow s
  | .fdctIfast => Sys2Proof.Machine.execFdctIfast s
  | .fdctFloat => Sys2Proof.Machine.execFdctFloat s
  | .quantInt => Sys2Proof.Machine.execQuantInt s
  | .quantFloat => Sys2Proof.Machine.execQuantFloat s
  | .qtblPrep => Sys2Proof.Machine.execQtblPrep s
  | .idctIslow => Sys2Proof.Machine.execIdctIslow s
  | .idctIfast => Sys2Proof.Machine.execIdctIfast s
  | .idctFloat => Sys2Proof.Machine.execIdctFloat s
  | .idct2x2 => Sys2Proof.Machine.execIdct2x2 s
  | .idct4x4 => Sys2Proof.Machine.execIdct4x4 s
  | .idct6x6 => Sys2Proof.Machine.execIdct6x6 s
  | .idct12x12 => Sys2Proof.Machine.execIdct12x12 s
  | .rgbYcc l => Sys2Proof.Machine.execRgbYcc l s
  | .rgbGray l => Sys2Proof.Machine.execRgbGray l s
  | .yccRgb l => Sys2Proof.Machine.execYccRgb l s
  | .yccRgb565 => Sys2Proof.Machine.execYccRgb565 s
  | .downH2v1 => Sys2Proof.Machine.execDownH2v1 s
  | .downH2v2 => Sys2Proof.Machine.execDownH2v2 s
  | .upH2v1Box => Sys2Proof.Machine.execUpH2v1Box s
  | .upH2v2Box => Sys2Proof.Machine.execUpH2v2Box s
  | .upH2v1Fancy => Sys2Proof.Machine.execUpH2v1Fancy s
  | .upH1v2Fancy => Sys2Proof.Machine.execUpH1v2Fancy s
  | .upH2v2Fancy => Sys2Proof.Machine.execUpH2v2Fancy s
  | .mergedH2v1 l => Sys2Proof.Machine.execMergedH2v1 l s
  | .mergedH2v2 l => Sys2Proof.Machine.execMergedH2v2 l s

end Sys2Proof.Machine
end

