-- ==== Sys2Proof/Machine/Fetch.lean ====
section
/-! DEFINITION. What a step does before and around a command: reading the pending command's word (30_encoding.md R110), turning
a decode failure into its command error, taking a turn off the agenda (10_state.md R30), and placing a command. -/

namespace Sys2Proof.Machine

/-- The word the command step decodes: the `CMD` register (30_encoding.md R110). -/
def State.commandWord (s : State) : Word := s.cmd

/-- The command error of a word that names no command (60_exceptions.md R401, R403 checks 1 and 2). -/
def decodeFailure : DecodeError → CmdError
  | .opcode => .opcode
  | .reserved => .reserved

/-- Whose turn it is, and the state with that turn taken off the agenda. With nothing on the agenda the engine is next:
the host does nothing more (10_state.md R30, log 3). -/
def State.nextTurn (s : State) : Turn × State :=
  match s.agenda with
  | [] => (.engine, s)
  | t :: rest => (t, { s with agenda := rest })

/-- The state with a command written and started by the host, the engine's turn next (log 13): `CMD` holds the word and
`START` has taken effect (10_state.md R38). -/
def State.placeCommand (s : State) (w : Word) : State :=
  { s with cmd := w, agenda := .engine :: s.agenda }.begin

end Sys2Proof.Machine
end

