-- ==== Sys2Proof/Machine/Step.lean ====
section
/-! DEFINITION. One step of the machine (10_state.md R30): a turn of the engine or of the outside world. -/

namespace Sys2Proof.Machine

/-- A turn of the engine (10_state.md R46): the command step if `BUSY = 1`, and nothing otherwise, because the step is enabled
only then (R30). -/
def engineTurn (s : State) : Host.Outcome State Fault Refusal :=
  if s.busy then
    match decode s.commandWord with
    | .ok i => exec i s
    | .error e => s.takeCmdError (decodeFailure e)
  else .next s

/-- A turn taken. -/
def takeTurn : Turn → State → Host.Outcome State Fault Refusal
  | .engine, s => engineTurn s
  | .host a, s => s.hostAccess a
  | .powerOn, s => .next s.powerOn

/-- One step. -/
def step (s : State) : Host.Outcome State Fault Refusal := takeTurn s.nextTurn.1 s.nextTurn.2

/-- The state whose next step runs the command of this table word (spec/opcode_table.json: one 32-bit word). -/
def State.withFetchWord (s : State) (nbits w : Nat) : State :=
  s.placeCommand (BitVec.ofNat 32 (w % Nat.pow 2 nbits))

end Sys2Proof.Machine
end

