-- ==== Sys2Proof/Safety.lean ====
section
/-! DEFINITION. What claims call a sound state and a safe run, and the words the statements are written in: an accepted command, the
state after a command that succeeded or failed, and the spec's formulas in closed form. -/

namespace Sys2Proof.Machine

/-- `STATUS` as the register rules leave it (10_state.md R38, R39, R46; 60_exceptions.md R401): a pending command has cleared
`DONE`, `ERR` and `ERRCODE`, `ERR` stands only with a code, and no reserved code is reported. -/
def State.statusOk (s : State) : Bool :=
  (!s.busy || (!s.done && !s.err && s.errCode == 0#8)) && (!s.err || s.errCode != 0#8) && Nat.ble s.errCode.toNat 7

/-- The invariant of the machine: legal parameters (00_scope.md R8), memory in its canonical form and inside `DMEM_SIZE`
(20_memory.md R80), and `STATUS` as its rules leave it. -/
def State.Inv (s : State) : Prop :=
  s.cfg.wf = true ∧ Memory.wf s.mem = true ∧ Memory.within s.cfg.dmemSize s.mem = true ∧ s.statusOk = true

/-- No fault and no refusal within `n` steps. -/
def safeRun : Nat → State → Prop
  | 0, _ => True
  | n + 1, s => ∃ t, step s = .next t ∧ safeRun n t

/-- The command passes checks 3 to 6 of 60_exceptions.md R403 with the registers of this state. -/
def State.accepts (s : State) (i : Instr) : Prop := (plan s i).check s.cfg.dmemSize = none

/-- The state after a command step that succeeded and left this data memory (10_state.md R46): no other register changes. -/
def State.succeeded (s : State) (m : Memory) : State :=
  { s with busy := false, done := true, err := false, errCode := 0#8, mem := m }

/-- The state after a command step that failed with a code (60_exceptions.md R402): no other register changes and no byte of
data memory does. -/
def State.failed (s : State) (code : Byte) : State :=
  { s with busy := false, done := true, err := true, errCode := code }

/-- The next turn is the engine's, and `rest` is the agenda after it (10_state.md R30, log 3). -/
def State.engineNext (s : State) (rest : List Turn) : Prop := s.agenda = .engine :: rest ∨ (s.agenda = [] ∧ rest = [])

/-- Two states with the same parameters and the same `CMD` to `ROWS` registers. -/
def State.sameOperands (s t : State) : Prop :=
  s.cfg = t.cfg ∧ s.cmd = t.cmd ∧ s.src0 = t.src0 ∧ s.src1 = t.src1 ∧ s.src2 = t.src2 ∧ s.dst0 = t.dst0 ∧
    s.dst1 = t.dst1 ∧ s.dst2 = t.dst2 ∧ s.tbl = t.tbl ∧ s.sstride = t.sstride ∧ s.dstride = t.dstride ∧
    s.width = t.width ∧ s.nrows = t.nrows

/-- Every register has its reset value (10_state.md R34, R49). -/
def State.registersReset (s : State) : Prop :=
  s.irqEn = false ∧ s.busy = false ∧ s.done = false ∧ s.err = false ∧ s.errCode = 0#8 ∧ s.cmd = 0#32 ∧ s.src0 = 0#32 ∧
    s.src1 = 0#32 ∧ s.src2 = 0#32 ∧ s.dst0 = 0#32 ∧ s.dst1 = 0#32 ∧ s.dst2 = 0#32 ∧ s.tbl = 0#32 ∧ s.sstride = 0#32 ∧
    s.dstride = 0#32 ∧ s.width = 0#32 ∧ s.nrows = 0#16

/-- A byte of the span of a region of the pending command (20_memory.md R85, R93). -/
def State.pendingByte (s : State) (a : Nat) : Prop :=
  s.busy = true ∧ ∃ i, decode s.cmd = .ok i ∧ ∃ r ∈ (plan s i).inputs ++ (plan s i).outputs,
    r.base ≤ (a : Int) ∧ (a : Int) < r.base + ((r.nrows : Int) - 1) * (r.stride : Int) + (r.rowbytes : Int)

end Sys2Proof.Machine

namespace Sys2Proof.Claims

open Sys2Proof.Machine

/-- The operation codes 30_encoding.md R112 assigns. -/
def assignedOps : List Nat :=
  [0x00, 0x10, 0x11, 0x12, 0x20, 0x21, 0x22, 0x30, 0x31, 0x32, 0x33, 0x34, 0x35, 0x36, 0x40, 0x41, 0x42, 0x43, 0x50, 0x51,
    0x52, 0x53, 0x54, 0x55, 0x56, 0x58, 0x59]

/-- The operation codes whose row of 30_encoding.md R112 uses `LAYOUT`. -/
def layoutOps : List Nat := [0x40, 0x41, 0x42, 0x58, 0x59]

/-- The condition of `ERR_RESERVED` for a word with an assigned `OP` (30_encoding.md R112, R117). -/
def reservedBad (w : Word) : Prop :=
  w.toNat / 4096 ≠ 0 ∨ (w.toNat % 256 ∉ layoutOps ∧ w.toNat / 256 % 16 ≠ 0) ∨
    (w.toNat % 256 ∈ layoutOps ∧ 5 < w.toNat / 256 % 16)

/-- Every byte outside `lo .. lo + n - 1` is the same in both memories. -/
def sameOutside (m m' : Memory) (lo n : Nat) : Prop := ∀ a, a < lo ∨ lo + n ≤ a → Memory.read m' a = Memory.read m a

/-- Every byte outside rows of `rowbytes` bytes at `base + r*stride` is the same in both memories. -/
def sameOutsideRows (m m' : Memory) (base nrows stride rowbytes : Nat) : Prop :=
  ∀ a, (∀ r k, r < nrows → k < rowbytes → a ≠ base + r * stride + k) → Memory.read m' a = Memory.read m a

/-- Two half-open intervals of addresses have none in common. -/
def apart (lo hi lo' hi' : Nat) : Prop := hi ≤ lo' ∨ hi' ≤ lo

/-- The end of the span of rows (20_memory.md R85). -/
def rowsEnd (base nrows stride rowbytes : Nat) : Nat := base + (nrows - 1) * stride + rowbytes

/-- A sum of weights times values. -/
def dot : List Int → (Nat → Int) → Int
  | [], _ => 0
  | c :: w, e => c * e 0 + dot w fun k => e (k + 1)

/-- The rows of the transform that 41_fdct.md R153 computes: the sums of products of its 13-bit constants, output by output. Rows 0 and 4
have no constant. -/
def forwardWeights : Nat → List Int
  | 0 => [1, 1, 1, 1, 1, 1, 1, 1]
  | 1 => [11363, 9633, 6437, 2260, -2260, -6437, -9633, -11363]
  | 2 => [10703, 4433, -4433, -10703, -10703, -4433, 4433, 10703]
  | 3 => [9633, -2259, -11362, -6436, 6436, 11362, 2259, -9633]
  | 4 => [1, -1, -1, 1, 1, -1, -1, 1]
  | 5 => [6437, -11362, 2261, 9633, -9633, -2261, 11362, -6437]
  | 6 => [4433, -10704, 10704, -4433, -4433, 10704, -10704, 4433]
  | _ => [2260, -6436, 9633, -11363, 11363, -9633, 6436, -2260]

/-- The rows of the transform that 43_idct.md R205 computes. -/
def inverseWeights : Nat → List Int
  | 0 => [8192, 11363, 10703, 9633, 8192, 6437, 4433, 2260]
  | 1 => [8192, 9633, 4433, -2259, -8192, -11362, -10704, -6436]
  | 2 => [8192, 6437, -4433, -11362, -8192, 2261, 10704, 9633]
  | 3 => [8192, 2260, -10703, -6436, 8192, 9633, -4433, -11363]
  | 4 => [8192, -2260, -10703, 6436, 8192, -9633, -4433, 11363]
  | 5 => [8192, -6437, -4433, 11362, -8192, -2261, 10704, -9633]
  | 6 => [8192, -9633, 4433, 2259, -8192, 11362, -10704, 6436]
  | _ => [8192, -11363, 10703, -9633, 8192, -6437, 4433, -2260]

/-- The rows of the transform that 43_idct.md R215 computes. -/
def inverseWeights2 : Nat → List Int
  | 0 => [32768, 29692, 0, -10426, 0, 6967, 0, -5906]
  | _ => [32768, -29692, 0, 10426, 0, -6967, 0, 5906]

/-- The rows of the transform that 43_idct.md R218 computes. -/
def inverseWeights4 : Nat → List Int
  | 0 => [16384, 20995, 15137, 7373, 0, -4926, -6270, -4176]
  | 1 => [16384, 8697, -15137, -17799, 0, 11893, 6270, -1730]
  | 2 => [16384, -8697, -15137, 17799, 0, -11893, 6270, 1730]
  | _ => [16384, -20995, 15137, -7373, 0, 4926, -6270, 4176]

/-- The rows of the transform that 43_idct.md R221 computes. Its inputs are the first six values. -/
def inverseWeights6 : Nat → List Int
  | 0 => [8192, 11190, 10033, 8192, 5793, 2998]
  | 1 => [8192, 8192, 0, -8192, -11586, -8192]
  | 2 => [8192, 2998, -10033, -8192, 5793, 11190]
  | 3 => [8192, -2998, -10033, 8192, 5793, -11190]
  | 4 => [8192, -8192, 0, 8192, -11586, 8192]
  | _ => [8192, -11190, 10033, -8192, 5793, -2998]

/-- The rows of the transform that 43_idct.md R224 computes. -/
def inverseWeights12 : Nat → List Int
  | 0 => [8192, 11487, 11190, 10703, 10033, 9192, 8192, 7053]
  | 1 => [8192, 10703, 8192, 4433, 0, -4433, -8192, -10703]
  | 2 => [8192, 9192, 2998, -4433, -10033, -11485, -8192, -1512]
  | 3 => [8192, 7053, -2998, -10703, -10033, -1512, 8192, 11486]
  | 4 => [8192, 4433, -8192, -10704, 0, 10704, 8192, -4433]
  | 5 => [8192, 1513, -11190, -4433, 10033, 7053, -8192, -9191]
  | 6 => [8192, -1513, -11190, 4433, 10033, -7053, -8192, 9191]
  | 7 => [8192, -4433, -8192, 10704, 0, -10704, 8192, 4433]
  | 8 => [8192, -7053, -2998, 10703, -10033, 1512, 8192, -11486]
  | 9 => [8192, -9192, 2998, 4433, -10033, 11485, -8192, 1512]
  | 10 => [8192, -10703, 8192, -4433, 0, 4433, -8192, 10703]
  | _ => [8192, -11487, 11190, -10703, 10033, -9192, 8192, -7053]

/-- A value of the dequantized block of the integer inverse transforms (43_idct.md R200). -/
def dequantized (s : State) (u v : Nat) : Int :=
  Memory.i16 s.mem (s.src0.toNat + 2 * (8 * u + v)) * Memory.i16 s.mem (s.tbl.toNat + 2 * (8 * u + v))

/-- A level-shifted sample of the block of the forward transforms (41_fdct.md R150). -/
def shifted (s : State) (y x : Nat) : Int := Memory.s8 s.mem (s.src0.toNat + y * (s.sstride.toNat % 65536) + x) - 128

/-- `LIMIT(x)` in both modes of `RANGE_LIMIT_MODE` (43_idct.md R202). -/
def limited (mode : RangeLimit) (x : Int) : Int :=
  match mode with
  | .saturate => max 0 (min 255 (x + 128))
  | .mask10 => max 0 (min 255 ((x + 512) % 1024 - 384))

/-- An inverse transform with `n` by `n` samples whose two passes are sums of products rounded half up: pass 1 by `2^p1`, pass 2 by
`2^p2`. The command `i`, accepted, completes with the samples of both passes and leaves every other byte alone. -/
def InverseAgrees (i : Instr) (n : Nat) (weights : Nat → List Int) (p1 p2 : Nat) : Prop :=
  ∀ s : State, s.accepts i →
    ∃ (ws : Nat → Nat → Int) (m : Memory), exec i s = .next (s.succeeded m) ∧
      (∀ k v, k < n → v < 8 → ws k v = (dot (weights k) (fun u => dequantized s u v) + 2 ^ (p1 - 1)) / 2 ^ p1) ∧
      (∀ y x, y < n → x < n → Memory.s8 m (s.dst0.toNat + y * (s.dstride.toNat % 65536) + x) =
        limited s.cfg.rangeLimit ((dot (weights x) (fun v => ws y v) + 2 ^ (p2 - 1)) / 2 ^ p2)) ∧
      sameOutsideRows s.mem m s.dst0.toNat n (s.dstride.toNat % 65536) n

/-- `M(x, k)` (41_fdct.md R156, 43_idct.md R208). -/
def scaled8 (x k : Int) : Int := x * k / 256

/-- Output `k` of `FA(e)` (41_fdct.md R156). -/
def fastForward (e : Nat → Int) (k : Nat) : Int :=
  let t4 := e 3 - e 4
  let t5 := e 2 - e 5
  let t6 := e 1 - e 6
  let t7 := e 0 - e 7
  let t10 := e 0 + e 7 + (e 3 + e 4)
  let t13 := e 0 + e 7 - (e 3 + e 4)
  let t11 := e 1 + e 6 + (e 2 + e 5)
  let t12 := e 1 + e 6 - (e 2 + e 5)
  let z1 := scaled8 (t12 + t13) 181
  let z5 := scaled8 (t4 + t5 - (t6 + t7)) 98
  let z2 := scaled8 (t4 + t5) 139 + z5
  let z4 := scaled8 (t6 + t7) 334 + z5
  let z3 := scaled8 (t5 + t6) 181
  match k with
  | 0 => t10 + t11
  | 1 => t7 + z3 + z4
  | 2 => t13 + z1
  | 3 => t7 - z3 - z2
  | 4 => t10 - t11
  | 5 => t7 - z3 + z2
  | 6 => t13 - z1
  | _ => t7 + z3 - z4

/-- Output `k` of `GA(e)` (43_idct.md R208). -/
def fastInverse (e : Nat → Int) (k : Nat) : Int :=
  let t13 := e 2 + e 6
  let t12 := scaled8 (e 2 - e 6) 362 - t13
  let t7 := e 1 + e 7 + (e 5 + e 3)
  let z5 := scaled8 (e 5 - e 3 + (e 1 - e 7)) 473
  let t6 := scaled8 (e 5 - e 3) (-669) + z5 - t7
  let t5 := scaled8 (e 1 + e 7 - (e 5 + e 3)) 362 - t6
  let t4 := scaled8 (e 1 - e 7) 277 - z5 + t5
  match k with
  | 0 => e 0 + e 4 + t13 + t7
  | 1 => e 0 - e 4 + t12 + t6
  | 2 => e 0 - e 4 - t12 + t5
  | 3 => e 0 + e 4 - t13 - t4
  | 4 => e 0 + e 4 - t13 + t4
  | 5 => e 0 - e 4 - t12 - t5
  | 6 => e 0 - e 4 + t12 - t6
  | _ => e 0 + e 4 + t13 - t7

/-- Output `k` of `FF(e)` (41_fdct.md R159). -/
def floatForward (e : Nat → F32) (k : Nat) : F32 :=
  let t0 := fadd (e 0) (e 7)
  let t1 := fadd (e 1) (e 6)
  let t2 := fadd (e 2) (e 5)
  let t3 := fadd (e 3) (e 4)
  let t4 := fsub (e 3) (e 4)
  let t5 := fsub (e 2) (e 5)
  let t6 := fsub (e 1) (e 6)
  let t7 := fsub (e 0) (e 7)
  let t13 := fsub t0 t3
  let z1 := fmul (fadd (fsub t1 t2) t13) 0x3F3504F3#32
  let z5 := fmul (fsub (fadd t4 t5) (fadd t6 t7)) 0x3EC3EF15#32
  let z2 := fadd (fmul 0x3F0A8BD4#32 (fadd t4 t5)) z5
  let z4 := fadd (fmul 0x3FA73D75#32 (fadd t6 t7)) z5
  let z3 := fmul (fadd t5 t6) 0x3F3504F3#32
  match k with
  | 0 => fadd (fadd t0 t3) (fadd t1 t2)
  | 1 => fadd (fadd t7 z3) z4
  | 2 => fadd t13 z1
  | 3 => fsub (fsub t7 z3) z2
  | 4 => fsub (fadd t0 t3) (fadd t1 t2)
  | 5 => fadd (fsub t7 z3) z2
  | 6 => fsub t13 z1
  | _ => fsub (fadd t7 z3) z4

/-- Output `k` of `GF(e)` (43_idct.md R211). -/
def floatInverse (e : Nat → F32) (k : Nat) : F32 :=
  let t10 := fadd (e 0) (e 4)
  let t11 := fsub (e 0) (e 4)
  let t13 := fadd (e 2) (e 6)
  let t12 := fsub (fmul (fsub (e 2) (e 6)) 0x3FB504F3#32) t13
  let z13 := fadd (e 5) (e 3)
  let z10 := fsub (e 5) (e 3)
  let z11 := fadd (e 1) (e 7)
  let z12 := fsub (e 1) (e 7)
  let t7 := fadd z11 z13
  let z5 := fmul (fadd z10 z12) 0x3FEC835E#32
  let t6 := fsub (fsub z5 (fmul z10 0x40273D75#32)) t7
  let t5 := fsub (fmul (fsub z11 z13) 0x3FB504F3#32) t6
  let t4 := fsub (fsub z5 (fmul z12 0x3F8A8BD4#32)) t5
  match k with
  | 0 => fadd (fadd t10 t13) t7
  | 1 => fadd (fadd t11 t12) t6
  | 2 => fadd (fsub t11 t12) t5
  | 3 => fadd (fsub t10 t13) t4
  | 4 => fsub (fsub t10 t13) t4
  | 5 => fsub (fsub t11 t12) t5
  | 6 => fsub (fadd t11 t12) t6
  | _ => fsub (fadd t10 t13) t7

/-- `FOUT` of an integer `CVT(v)` in both modes (43_idct.md R213). -/
def floatLimited (mode : RangeLimit) (i : Int) : Int :=
  match mode with
  | .saturate => max 0 (min 255 i)
  | .mask10 => if i % 1024 < 256 then i % 1024 else if i % 1024 < 640 then 255 else 0

/-- The exponent field of a binary32 encoding. -/
def exponentField (x : F32) : Nat := x.toNat / 2 ^ 23 % 256

/-- A binary32 encoding that stands for a finite value. -/
def isFinite (x : F32) : Prop := exponentField x ≠ 255

/-- The value of a finite binary32 encoding, in units of `2^-149`: every finite value is a multiple of it. -/
def units (x : F32) : Int :=
  let magnitude : Int :=
    if exponentField x = 0 then ((x.toNat % 2 ^ 23 : Nat) : Int)
    else ((x.toNat % 2 ^ 23 + 2 ^ 23 : Nat) : Int) * 2 ^ (exponentField x - 1)
  if 2 ^ 31 ≤ x.toNat then -magnitude else magnitude

/-- A binary32 encoding of a NaN. -/
def isNan (x : F32) : Prop := exponentField x = 255 ∧ x.toNat % 2 ^ 23 ≠ 0

/-- A binary32 encoding of an infinity. -/
def isInfinite (x : F32) : Prop := x = 0x7F800000#32 ∨ x = 0xFF800000#32

/-- A magnitude with the sign of a product or quotient: `+` where both signs agree, `-` where they differ. -/
def signedAs (a b magnitude : F32) : F32 :=
  if (2 ^ 31 ≤ a.toNat ↔ 2 ^ 31 ≤ b.toNat) then magnitude else magnitude ||| 0x80000000#32

/-- `c` is the integer `CVT(v)` (42_quant.md R187). -/
def Converts (v : F32) (c : Int) : Prop :=
  (isFinite v → c = Int.tdiv (units v) (2 ^ 149)) ∧ (v = 0x7F800000#32 → c = 2 ^ 31 - 1) ∧
    (v = 0xFF800000#32 → c = -2 ^ 31) ∧ (isNan v → c = 0)

/-- `f32(x)` is exact for every 16-bit integer, and `+0.0` for 0 (43_idct.md R201). -/
def IntegersAreExact : Prop :=
  ∀ x : Int, -32768 ≤ x → x ≤ 32767 →
    isFinite (floatOfInt x) ∧ units (floatOfInt x) = x * 2 ^ 149 ∧ (x = 0 → floatOfInt x = 0x00000000#32)

/-- The distance, times `den`, between a binary32 value and the exact value `num / den`, both in units of `2^-149`. -/
def distance (x : F32) (num : Int) (den : Nat) : Nat := (units x * (den : Int) - num).natAbs

/-- `r` is the binary32 result for the exact nonzero value `num / den` (in units of `2^-149`) under rounding to nearest, ties to even
(00_scope.md R12): it has the value's sign, it is infinite where the value is halfway between the largest finite value and
`2^128` or beyond, and else it is finite, no finite encoding is nearer, and where another value is as near `r` is even. -/
def RoundsTo (r : F32) (num : Int) (den : Nat) : Prop :=
  (2 ^ 31 ≤ r.toNat ↔ num < 0) ∧
    ((2 ^ 25 - 1) * 2 ^ 252 * den ≤ num.natAbs → r.toNat % 2 ^ 31 = 0x7F800000) ∧
    (num.natAbs < (2 ^ 25 - 1) * 2 ^ 252 * den → isFinite r ∧ ∀ x, isFinite x →
      distance r num den ≤ distance x num den ∧
        (distance r num den = distance x num den → units x ≠ units r → r.toNat % 2 = 0))

/-- The three samples of 44_color.md R251 for a pixel. -/
def lumaSample (r g b : Int) : Int := (19595 * r + 38470 * g + 7471 * b + 32768) / 65536

/-- `Cb` of 44_color.md R251. -/
def cbSample (r g b : Int) : Int := (-11059 * r - 21709 * g + 32768 * b + 8388608 + 32767) / 65536

/-- `Cr` of 44_color.md R251. -/
def crSample (r g b : Int) : Int := (32768 * r - 27439 * g - 5329 * b + 8388608 + 32767) / 65536

/-- A value clamped to the samples. -/
def toSample (x : Int) : Int := max 0 (min 255 x)

/-- `R` of 44_color.md R257. -/
def redSample (y cr : Int) : Int := toSample (y + (91881 * (cr - 128) + 32768) / 65536)

/-- `G` of 44_color.md R257. -/
def greenSample (y cb cr : Int) : Int := toSample (y + (-22554 * (cb - 128) - 46802 * (cr - 128) + 32768) / 65536)

/-- `B` of 44_color.md R257. -/
def blueSample (y cb : Int) : Int := toSample (y + (116130 * (cb - 128) + 32768) / 65536)

/-- The pixel size and the offsets of red, green, blue and filler (30_encoding.md R116). -/
def layoutRow : Layout → Nat × Nat × Nat × Nat × Option Nat
  | .rgb => (3, 0, 1, 2, none)
  | .bgr => (3, 2, 1, 0, none)
  | .rgbx => (4, 0, 1, 2, some 3)
  | .bgrx => (4, 2, 1, 0, some 3)
  | .xrgb => (4, 1, 2, 3, some 0)
  | .xbgr => (4, 3, 2, 1, some 0)

/-- The pixel size (30_encoding.md R116). -/
def layoutSize (l : Layout) : Nat := (layoutRow l).1

/-- The pixel at an address of this memory is `(R, G, B)` with the filler byte where the layout has one (44_color.md R259). -/
def PixelIs (m : Memory) (filler : Byte) (l : Layout) (a : Nat) (r g b : Int) : Prop :=
  Memory.s8 m (a + (layoutRow l).2.1) = r ∧ Memory.s8 m (a + (layoutRow l).2.2.1) = g ∧
    Memory.s8 m (a + (layoutRow l).2.2.2.1) = b ∧ ∀ k, (layoutRow l).2.2.2.2 = some k → Memory.read m (a + k) = filler

/-- The sample at row `r`, column `j` of the rows `SRC0` names (45_resample.md R290). -/
def source (s : State) (r j : Nat) : Int := Memory.s8 s.mem (s.src0.toNat + r * (s.sstride.toNat % 65536) + j)

/-- The sample at row `r - 1`, column `j` of the rows `SRC0` names: row 0 is the context row above the first (45_resample.md R303). -/
def context (s : State) (r j : Nat) : Int :=
  Memory.s8 s.mem (s.src0.toNat - s.sstride.toNat % 65536 + r * (s.sstride.toNat % 65536) + j)

/-- The sample at row `r`, column `j` of the output rows `DST0` names, in this memory (45_resample.md R290). -/
def target (s : State) (m : Memory) (r j : Nat) : Int := Memory.s8 m (s.dst0.toNat + r * (s.dstride.toNat % 65536) + j)

/-- A command whose only output is `n` rows of `w` samples at `DST0` completes with these samples and leaves every other
byte alone. -/
def SamplesAgree (s : State) (i : Instr) (n w : Nat) (value : Nat → Nat → Int) : Prop :=
  ∃ m, exec i s = .next (s.succeeded m) ∧ (∀ r j, r < n → j < w → target s m r j = value r j) ∧
    sameOutsideRows s.mem m s.dst0.toNat n (s.dstride.toNat % 65536) w

end Sys2Proof.Claims
end

