-- ==== Sys2Proof/Certificates/Slice0/Obligations.lean ====
section
/-! DEFINITION. The statements for the provers. In them a command step is `exec i s`; `s.accepts i` says that it passes the checks of
60_exceptions.md R403 that depend on the registers, and the statements named `Acceptance…` say which registers those are. -/

open Sys2Proof Sys2Proof.Machine Sys2Proof.Claims

/-! ## Encoding -/

/-- A word decodes to a command exactly when it is that command's word `OP | (LAYOUT << 8)`: no bit of a command word is dropped
and no other word names a command (30_encoding.md R110 to R112, R116, R118). -/
def Obligations.DecodeInvertsEncode : Prop :=
  ∀ (w : Word) (i : Instr), decode w = .ok i ↔ w = encode i

/-- The two encoding errors by the fields of the word, and everything else is a command (30_encoding.md R112, R117). -/
def Obligations.DecodeErrorsByField : Prop :=
  ∀ w : Word,
    (w.toNat % 256 ∉ assignedOps → decode w = .error .opcode) ∧
    (w.toNat % 256 ∈ assignedOps → reservedBad w → decode w = .error .reserved) ∧
    (w.toNat % 256 ∈ assignedOps → ¬ reservedBad w → ∃ i, decode w = .ok i ∧ i.op = w.toNat % 256)

/-- Words written out from 30_encoding.md R111, R112, R116 and R118, one or more of every family. -/
def Obligations.DecodedWords : Prop :=
  decode 0x00000000#32 = .ok .nop ∧ decode 0x00000010#32 = .ok .fdctIslow ∧ decode 0x00000012#32 = .ok .fdctFloat ∧
    decode 0x00000022#32 = .ok .qtblPrep ∧ decode 0x00000033#32 = .ok .idct2x2 ∧ decode 0x00000036#32 = .ok .idct12x12 ∧
    decode 0x00000340#32 = .ok (.rgbYcc .bgrx) ∧ decode 0x00000541#32 = .ok (.rgbGray .xbgr) ∧
    decode 0x00000043#32 = .ok .yccRgb565 ∧ decode 0x00000056#32 = .ok .upH2v2Fancy ∧
    decode 0x00000159#32 = .ok (.mergedH2v2 .bgr) ∧ decode 0x00000057#32 = .error .opcode ∧
    decode 0x00000640#32 = .error .reserved ∧ decode 0x00000143#32 = .error .reserved ∧
    decode 0x80000010#32 = .error .reserved

/-! ## One step -/

/-- A turn of the engine with a command pending is the meaning of the command that `CMD` decodes to, with the turn taken off the
agenda (10_state.md R30, R46; 30_encoding.md R110). With none pending the engine's step is not enabled (R30): that the turn
then passes is the model's choice (log 3). -/
def Obligations.StepRunsDecodedCommand : Prop :=
  ∀ (s : State) (rest : List Turn), s.engineNext rest →
    (∀ i, s.busy = true → decode s.cmd = .ok i → step s = exec i { s with agenda := rest }) ∧
    (s.busy = false → step s = .next { s with agenda := rest })

/-- The state that stands for a placed command runs exactly that command in its next step (log 13). -/
def Obligations.PlacedCommandRunsNext : Prop :=
  ∀ (s : State) (w : Nat) (i : Instr), w < 2 ^ 32 → decode (BitVec.ofNat 32 w) = .ok i →
    step (s.withFetchWord 32 w) =
      exec i { s with cmd := BitVec.ofNat 32 w, busy := true, done := false, err := false, errCode := 0#8 }

/-! ## The register block -/

/-- What a host access to `CTRL` does (10_state.md R38). What bit 1 of a write that sets `SRST` does is log 8: the soft reset's own
statement covers it. -/
def Obligations.ControlRegister : Prop :=
  ∀ (s : State) (rest : List Turn),
    (∀ v : Word, s.agenda = .host (.regWrite 0x08#8 .word v) :: rest →
      (v.getLsbD 2 = true → v.getLsbD 1 = false → step s = .next { s with agenda := rest }.softReset) ∧
      (v.getLsbD 2 = false → v.getLsbD 0 = true → s.busy = false →
        step s = .next { s with
          agenda := rest, irqEn := v.getLsbD 1, busy := true, done := false, err := false, errCode := 0#8 }) ∧
      (v.getLsbD 2 = false → v.getLsbD 0 = false ∨ s.busy = true →
        step s = .next { s with agenda := rest, irqEn := v.getLsbD 1 })) ∧
    (s.agenda = .host (.regRead 0x08#8 .word) :: rest →
      step s = .next { s with agenda := rest, hostData := if s.irqEn then 0x2#32 else 0x0#32 })

/-- What a host access to `STATUS` does, also while a command is pending: the read packs the four fields, the write clears exactly
the bits of `DONE` and `ERR` it names (10_state.md R39). -/
def Obligations.StatusRegister : Prop :=
  ∀ (s : State) (rest : List Turn),
    (s.agenda = .host (.regRead 0x0C#8 .word) :: rest →
      ∃ d : Word, step s = .next { s with agenda := rest, hostData := d } ∧ d.getLsbD 0 = s.busy ∧ d.getLsbD 1 = s.done ∧
        d.getLsbD 2 = s.err ∧ d.extractLsb' 8 8 = s.errCode ∧ d.extractLsb' 3 5 = 0#5 ∧ d.extractLsb' 16 16 = 0#16) ∧
    (∀ v : Word, s.agenda = .host (.regWrite 0x0C#8 .word v) :: rest →
      step s = .next { s with
        agenda := rest, done := s.done && !v.getLsbD 1, err := s.err && !v.getLsbD 2 })

/-- What a host read of every other offset returns, pending command or not, and that a read changes nothing else (10_state.md R33
to R36, R40 to R45). -/
def Obligations.RegisterReads : Prop :=
  ∀ (s : State) (rest : List Turn) (o : BitVec 8), s.agenda = .host (.regRead o .word) :: rest → o.toNat % 4 = 0 →
    ∃ d : Word, step s = .next { s with agenda := rest, hostData := d } ∧
      (o = 0x00#8 → d = 0x44424531#32) ∧ (o = 0x04#8 → d = 0x0000007F#32) ∧ (o = 0x10#8 → d = s.cmd) ∧
      (o = 0x14#8 → d = s.src0) ∧ (o = 0x18#8 → d = s.src1) ∧ (o = 0x1C#8 → d = s.src2) ∧ (o = 0x20#8 → d = s.dst0) ∧
      (o = 0x24#8 → d = s.dst1) ∧ (o = 0x28#8 → d = s.dst2) ∧ (o = 0x2C#8 → d = s.tbl) ∧ (o = 0x30#8 → d = s.sstride) ∧
      (o = 0x34#8 → d = s.dstride) ∧ (o = 0x38#8 → d = s.width) ∧
      (o = 0x3C#8 → d.extractLsb' 0 16 = s.nrows ∧ d.extractLsb' 16 16 = 0#16) ∧ (0x40 ≤ o.toNat → d = 0#32)

/-- What a host write with `BUSY = 0` does at every offset but those of `CTRL` and `STATUS`: one register takes the word, `ROWS` its low
half, and the read-only and reserved offsets ignore it (10_state.md R33, R34, R40 to R44). -/
def Obligations.OperandWrites : Prop :=
  ∀ (s : State) (rest : List Turn) (o : BitVec 8) (v : Word), s.agenda = .host (.regWrite o .word v) :: rest →
    o.toNat % 4 = 0 → s.busy = false →
    (o = 0x10#8 → step s = .next { s with agenda := rest, cmd := v }) ∧
    (o = 0x14#8 → step s = .next { s with agenda := rest, src0 := v }) ∧
    (o = 0x18#8 → step s = .next { s with agenda := rest, src1 := v }) ∧
    (o = 0x1C#8 → step s = .next { s with agenda := rest, src2 := v }) ∧
    (o = 0x20#8 → step s = .next { s with agenda := rest, dst0 := v }) ∧
    (o = 0x24#8 → step s = .next { s with agenda := rest, dst1 := v }) ∧
    (o = 0x28#8 → step s = .next { s with agenda := rest, dst2 := v }) ∧
    (o = 0x2C#8 → step s = .next { s with agenda := rest, tbl := v }) ∧
    (o = 0x30#8 → step s = .next { s with agenda := rest, sstride := v }) ∧
    (o = 0x34#8 → step s = .next { s with agenda := rest, dstride := v }) ∧
    (o = 0x38#8 → step s = .next { s with agenda := rest, width := v }) ∧
    (o = 0x3C#8 → step s = .next { s with agenda := rest, nrows := v.extractLsb' 0 16 }) ∧
    (o = 0x00#8 ∨ o = 0x04#8 ∨ 0x40 ≤ o.toNat → step s = .next { s with agenda := rest })

/-- While a command is pending, writes of `CMD` and the operand registers are ignored and reads of every register go through; so
whatever one step is, unless it is a reset, it leaves `CMD` and the operand registers as they were at `START`
(10_state.md R45). The first clause holds at every offset but those of `CTRL` and `STATUS`: `ID`, `CAP` and the reserved
offsets ignore writes at any time (R33, R34). -/
def Obligations.OperandsHeldWhileBusy : Prop :=
  ∀ s : State, s.busy = true →
    (∀ rest o v, s.agenda = .host (.regWrite o .word v) :: rest → o.toNat % 4 = 0 → o ≠ 0x08#8 → o ≠ 0x0C#8 →
      step s = .next { s with agenda := rest }) ∧
    (∀ rest o, s.agenda = .host (.regRead o .word) :: rest → o.toNat % 4 = 0 →
      step s = .next { s with agenda := rest, hostData := s.readReg o }) ∧
    (∀ t, step s = .next t → (∀ rest, s.agenda ≠ .powerOn :: rest) →
      (∀ rest w v, s.agenda = .host (.regWrite 0x08#8 w v) :: rest → v.getLsbD 2 = false) → s.sameOperands t)

/-- The interrupt line is `IRQ_EN AND DONE`: every command step raises it if enabled, and an acknowledged `DONE`, a successful
`START`, a cleared `IRQ_EN` and both resets lower it (10_state.md R48, 60_exceptions.md R410). -/
def Obligations.InterruptLine : Prop :=
  ∀ s : State, (s.irq = true ↔ s.irqEn = true ∧ s.done = true) ∧
    (∀ rest t, s.engineNext rest → s.busy = true → step s = .next t → t.irq = s.irqEn) ∧
    (∀ rest v t, s.agenda = .host (.regWrite 0x0C#8 .word v) :: rest → v.getLsbD 1 = true → step s = .next t →
      t.irq = false) ∧
    (∀ rest v t, s.agenda = .host (.regWrite 0x08#8 .word v) :: rest → step s = .next t →
      (v.getLsbD 0 = true ∧ s.busy = false) ∨ v.getLsbD 1 = false ∨ v.getLsbD 2 = true → t.irq = false) ∧
    (∀ rest v t, s.agenda = .host (.regWrite 0x08#8 .word v) :: rest → step s = .next t → v.getLsbD 0 = false →
      v.getLsbD 2 = false → t.done = s.done) ∧
    (∀ rest t, s.agenda = .powerOn :: rest → step s = .next t → t.irq = false)

/-! ## Reset -/

/-- Every register has its reset value in `State.reset`, after a power-on and after a soft reset, whatever bits 0 and 1 of the
word with `SRST` are (10_state.md R34, R49; 70_reset_and_hazards.md R450, R451). That bit 1 is lost with `SRST` is the
model's reading (log 8). -/
def Obligations.RegistersAfterReset : Prop :=
  State.reset.registersReset ∧ State.reset.irq = false ∧
    ∀ (s : State) (rest : List Turn),
      (s.agenda = .powerOn :: rest → ∃ t, step s = .next t ∧ t.registersReset ∧ t.irq = false ∧ t.cfg = s.cfg) ∧
      (∀ v : Word, s.agenda = .host (.regWrite 0x08#8 .word v) :: rest → v.getLsbD 2 = true →
        ∃ t, step s = .next t ∧ t.registersReset ∧ t.irq = false ∧ t.cfg = s.cfg)

/-- What the resets do to data memory: a power-on draws every byte; a soft reset while idle changes none; a soft reset with a
command pending draws the bytes inside the spans of its output regions and changes no other (20_memory.md R87,
70_reset_and_hazards.md R450, R451). The drawn bytes are free values (log 5); which spans a failing command has is log 9, and
that a pending word that names no command has none, so that no byte changes, is log 7. -/
def Obligations.MemoryAfterReset : Prop :=
  ∀ (s : State) (rest : List Turn),
    (s.agenda = .powerOn :: rest → ∃ t, step s = .next t ∧
      ∀ a, a < s.cfg.dmemSize → Memory.read t.mem a = Config.freeByte s.draws a) ∧
    (∀ v : Word, s.agenda = .host (.regWrite 0x08#8 .word v) :: rest → v.getLsbD 2 = true →
      ∃ t, step s = .next t ∧
        (s.busy = false → t.mem = s.mem) ∧
        (∀ e, decode s.cmd = .error e → t.mem = s.mem) ∧
        (∀ i, s.busy = true → decode s.cmd = .ok i → ∀ a : Nat,
          ((∃ r ∈ (plan s i).outputs, r.base ≤ (a : Int) ∧
              (a : Int) < r.base + ((r.nrows : Int) - 1) * (r.stride : Int) + (r.rowbytes : Int)) ∧ a < s.cfg.dmemSize →
            Memory.read t.mem a = Config.freeByte s.draws a) ∧
          ((∀ r ∈ (plan s i).outputs, ¬ (r.base ≤ (a : Int) ∧
              (a : Int) < r.base + ((r.nrows : Int) - 1) * (r.stride : Int) + (r.rowbytes : Int))) →
            Memory.read t.mem a = Memory.read s.mem a)))

/-! ## The memory port -/

/-- A host read of 1, 2 or 4 bytes returns their little-endian value and a host write sets exactly those bytes to it, where the
access is aligned, inside the memory and no hazard (20_memory.md R80 to R82). -/
def Obligations.MemoryPort : Prop :=
  ∀ (s : State) (rest : List Turn) (a : Word) (w : Width), a.toNat % w.bytes = 0 → a.toNat + w.bytes ≤ s.cfg.dmemSize →
    (∀ k, k < w.bytes → ¬ s.pendingByte (a.toNat + k)) →
    (s.agenda = .host (.memRead a w) :: rest → ∃ d : Word, step s = .next { s with agenda := rest, hostData := d } ∧
      d.toNat = ((List.range w.bytes).map fun k => (Memory.read s.mem (a.toNat + k)).toNat * 2 ^ (8 * k)).sum) ∧
    (∀ v : Word, s.agenda = .host (.memWrite a w v) :: rest → ∃ m, step s = .next { s with agenda := rest, mem := m } ∧
      (∀ k, k < w.bytes → Memory.read m (a.toNat + k) = v.extractLsb' (8 * k) 8) ∧ sameOutside s.mem m a.toNat w.bytes)

/-- The machine faults exactly at a host memory access, of a legal shape, to a byte inside a span of the pending command
(20_memory.md R93, 70_reset_and_hazards.md R461). Which spans a command that would fail has, and that an access of an
illegal shape is refused first, are the model's readings (log 6, log 7). -/
def Obligations.HazardsAreTheOnlyFaults : Prop :=
  ∀ (s : State) (f : Fault), step s = .fault f ↔ f = .hazard ∧ ∃ a w rest,
    (s.agenda = .host (.memRead a w) :: rest ∨ ∃ v, s.agenda = .host (.memWrite a w v) :: rest) ∧
      a.toNat % w.bytes = 0 ∧ a.toNat + w.bytes ≤ s.cfg.dmemSize ∧ ∃ k, k < w.bytes ∧ s.pendingByte (a.toNat + k)

/-- The machine refuses exactly the host accesses whose shape the spec leaves open: a register access that is not an aligned
32-bit one (10_state.md R33) and a memory access that is misaligned or ends beyond the memory (20_memory.md R80). That
a byte access beyond the memory is refused too is the model's reading (log 6). -/
def Obligations.RefusedAccesses : Prop :=
  ∀ (s : State) (r : Refusal), step s = .refused r ↔ ∃ rest,
    (r = .registerAccess ∧ ∃ o w, (s.agenda = .host (.regRead o w) :: rest ∨ ∃ v, s.agenda = .host (.regWrite o w v) :: rest) ∧
      (w ≠ .word ∨ o.toNat % 4 ≠ 0)) ∨
    (r = .memoryAccess ∧ ∃ a w, (s.agenda = .host (.memRead a w) :: rest ∨ ∃ v, s.agenda = .host (.memWrite a w v) :: rest) ∧
      (a.toNat % w.bytes ≠ 0 ∨ s.cfg.dmemSize < a.toNat + w.bytes))

/-! ## The command step -/

/-- Every command step, from every state, ends with `BUSY = 0`, `DONE = 1`, `ERR` set exactly for a nonzero `ERRCODE`, and changes no
other register (10_state.md R46, 60_exceptions.md R400). -/
def Obligations.CommandsReportInStatus : Prop :=
  ∀ (s : State) (i : Instr), ∃ (code : Byte) (m : Memory),
    exec i s = .next { s with busy := false, done := true, err := code != 0#8, errCode := code, mem := m } ∧
      code.toNat ∈ [0, 3, 4, 5, 6, 7]

/-- The engine's turn with a command pending takes the code of the first check that fails, in the order opcode, reserved,
parameters, alignment, range, overlap, data; and succeeds where none does (60_exceptions.md R403). -/
def Obligations.CheckOrder : Prop :=
  ∀ (s : State) (rest : List Turn), s.engineNext rest → s.busy = true →
    (s.cmd.toNat % 256 ∉ assignedOps → step s = .next ({ s with agenda := rest }.failed 0x01#8)) ∧
    (s.cmd.toNat % 256 ∈ assignedOps → reservedBad s.cmd → step s = .next ({ s with agenda := rest }.failed 0x02#8)) ∧
    ∀ i, decode s.cmd = .ok i →
      let p := plan s i
      let paramBad := p.paramOk = false
      let alignBad := ∃ x ∈ p.aligns, ¬ x.2 ∣ x.1
      let rangeBad := ∃ r ∈ p.inputs ++ p.outputs, r.base < 0 ∨
        (s.cfg.dmemSize : Int) < r.base + ((r.nrows : Int) - 1) * (r.stride : Int) + (r.rowbytes : Int)
      let overlapBad := (∃ o ∈ p.outputs, ∃ r ∈ p.inputs, o.meets r = true) ∨
        (∃ o ∈ p.outputs, 1 < o.nrows ∧ o.stride < o.rowbytes) ∨
        (∃ j k, ∃ (hj : j < p.outputs.length) (hk : k < p.outputs.length), j ≠ k ∧ (p.outputs[j]).meets (p.outputs[k]) = true)
      let dataBad := i = .qtblPrep ∧ ∃ k, k < 64 ∧ Memory.u16 s.mem (s.src0.toNat + 2 * k) = 0
      (paramBad → step s = .next ({ s with agenda := rest }.failed 0x03#8)) ∧
      (¬ paramBad → alignBad → step s = .next ({ s with agenda := rest }.failed 0x04#8)) ∧
      (¬ paramBad → ¬ alignBad → rangeBad → step s = .next ({ s with agenda := rest }.failed 0x05#8)) ∧
      (¬ paramBad → ¬ alignBad → ¬ rangeBad → overlapBad → step s = .next ({ s with agenda := rest }.failed 0x06#8)) ∧
      (¬ paramBad → ¬ alignBad → ¬ rangeBad → ¬ overlapBad → dataBad →
        step s = .next ({ s with agenda := rest }.failed 0x07#8)) ∧
      (¬ paramBad → ¬ alignBad → ¬ rangeBad → ¬ overlapBad → ¬ dataBad →
        ∃ m, step s = .next ({ s with agenda := rest }.succeeded m))

/-- A command that ends with an error writes no byte of data memory, sets `STATUS` and nothing else, and raises the interrupt if
enabled (60_exceptions.md R402). -/
def Obligations.FailedCommandsWriteNothing : Prop :=
  ∀ (s t : State) (rest : List Turn), s.engineNext rest → s.busy = true → step s = .next t → t.err = true →
    t.mem = s.mem ∧ t = { s with agenda := rest, busy := false, done := true, err := true, errCode := t.errCode } ∧
      1 ≤ t.errCode.toNat ∧ t.errCode.toNat ≤ 7 ∧ (s.irqEn = true → t.irq = true)

/-- Whatever a command does, it changes no byte outside its output regions, and no register but `STATUS` (00_scope.md R15,
10_state.md R46). -/
def Obligations.CommandFrame : Prop :=
  ∀ (s : State) (i : Instr), ∃ t, exec i s = .next t ∧
    t = { s with busy := false, done := true, err := t.err, errCode := t.errCode, mem := t.mem } ∧
    ∀ a : Nat, (∀ r ∈ (plan s i).outputs, ∀ row k : Nat, row < r.nrows → k < r.rowbytes →
      (a : Int) ≠ r.base + (row : Int) * (r.stride : Int) + (k : Int)) → Memory.read t.mem a = Memory.read s.mem a

/-- A command is a function of its registers, the parameters and the bytes of its input regions: two runs that agree on those end
with the same code and, where it is 0, write the same bytes in the output regions, whatever else differs
(00_scope.md R15, 41_fdct.md R163, 42_quant.md R185). -/
def Obligations.CommandPurity : Prop :=
  ∀ (s t : State) (i : Instr), s.sameOperands t →
    (∀ r ∈ (plan s i).inputs, ∀ a : Nat, r.Holds a → Memory.read s.mem a = Memory.read t.mem a) →
    ∃ s' t', exec i s = .next s' ∧ exec i t = .next t' ∧ s'.errCode = t'.errCode ∧
      (s'.errCode = 0#8 → ∀ r ∈ (plan s i).outputs, ∀ a : Nat, r.Holds a → Memory.read s'.mem a = Memory.read t'.mem a)

/-! ## Rules of the whole machine -/

/-- Every step keeps the invariant: legal parameters, memory in its canonical form with no address at or beyond `DMEM_SIZE`
listed, `STATUS` in a legal combination (00_scope.md R8, 20_memory.md R80, 10_state.md R38, R39, 60_exceptions.md R401). -/
def Obligations.InvariantKept : Prop :=
  ∀ s t : State, s.Inv → step s = .next t → t.Inv

/-- The invariant holds at reset (10_state.md R49). -/
def Obligations.InvariantAtReset : Prop := State.reset.Inv

/-- `BUSY` rises only by a `START` without `SRST`, and falls only by the engine's turn or a reset (10_state.md R38, R39, R46). -/
def Obligations.BusyChanges : Prop :=
  ∀ s t : State, step s = .next t →
    (s.busy = false → t.busy = true → ∃ v rest, s.agenda = .host (.regWrite 0x08#8 .word v) :: rest ∧
      v.getLsbD 0 = true ∧ v.getLsbD 2 = false) ∧
    (s.busy = true → t.busy = false → (∃ rest, s.engineNext rest) ∨ (∃ rest, s.agenda = .powerOn :: rest) ∨
      ∃ v rest, s.agenda = .host (.regWrite 0x08#8 .word v) :: rest ∧ v.getLsbD 2 = true)

/-- A byte of data memory changes only by a command step that reports success, by a host write of that byte, or by a reset that
draws it: reading has no side effect (10_state.md R46, 20_memory.md R84, R87). -/
def Obligations.MemoryChanges : Prop :=
  ∀ (s t : State) (a : Nat), step s = .next t → Memory.read t.mem a ≠ Memory.read s.mem a →
    (s.busy = true ∧ (∃ rest, s.engineNext rest) ∧ t.err = false) ∨
    (∃ b w v rest, s.agenda = .host (.memWrite b w v) :: rest ∧ b.toNat ≤ a ∧ a < b.toNat + w.bytes) ∨
    (∃ rest, s.agenda = .powerOn :: rest) ∨
    (s.busy = true ∧ ∃ v rest, s.agenda = .host (.regWrite 0x08#8 .word v) :: rest ∧ v.getLsbD 2 = true)

/-! ## Which registers a command accepts -/

/-- `NOP`, the DCT and the quantizer commands (30_encoding.md R113, R114): `SRC0` names 8 rows of 8 samples or a block of 128 or 256
bytes, `TBL` a table of 128, 256 or 384 bytes, `DST0` a block, a table or `n` rows of `n` samples. -/
def Obligations.AcceptanceBlocks : Prop :=
  ∀ s : State,
    let size := s.cfg.dmemSize
    let forward := fun bytes align : Nat =>
      s.dst0.toNat % align = 0 ∧ rowsEnd s.src0.toNat 8 (s.sstride.toNat % 65536) 8 ≤ size ∧ s.dst0.toNat + bytes ≤ size ∧
        apart s.src0.toNat (rowsEnd s.src0.toNat 8 (s.sstride.toNat % 65536) 8) s.dst0.toNat (s.dst0.toNat + bytes)
    let inverse := fun n bytes align : Nat =>
      s.src0.toNat % 2 = 0 ∧ s.tbl.toNat % align = 0 ∧ n ≤ s.dstride.toNat % 65536 ∧
        s.src0.toNat + 128 ≤ size ∧ s.tbl.toNat + bytes ≤ size ∧ rowsEnd s.dst0.toNat n (s.dstride.toNat % 65536) n ≤ size ∧
        apart s.src0.toNat (s.src0.toNat + 128) s.dst0.toNat (rowsEnd s.dst0.toNat n (s.dstride.toNat % 65536) n) ∧
        apart s.tbl.toNat (s.tbl.toNat + bytes) s.dst0.toNat (rowsEnd s.dst0.toNat n (s.dstride.toNat % 65536) n)
    let quant := fun bytes align table : Nat =>
      s.src0.toNat % align = 0 ∧ s.tbl.toNat % align = 0 ∧ s.dst0.toNat % 2 = 0 ∧ s.src0.toNat + bytes ≤ size ∧
        s.tbl.toNat + table ≤ size ∧ s.dst0.toNat + 128 ≤ size ∧
        apart s.src0.toNat (s.src0.toNat + bytes) s.dst0.toNat (s.dst0.toNat + 128) ∧
        apart s.tbl.toNat (s.tbl.toNat + table) s.dst0.toNat (s.dst0.toNat + 128)
    s.accepts .nop ∧
    (s.accepts .fdctIslow ↔ forward 128 2) ∧ (s.accepts .fdctIfast ↔ forward 128 2) ∧ (s.accepts .fdctFloat ↔ forward 256 4) ∧
    (s.accepts .idctIslow ↔ inverse 8 128 2) ∧ (s.accepts .idctIfast ↔ inverse 8 128 2) ∧
    (s.accepts .idctFloat ↔ inverse 8 256 4) ∧ (s.accepts .idct2x2 ↔ inverse 2 128 2) ∧
    (s.accepts .idct4x4 ↔ inverse 4 128 2) ∧ (s.accepts .idct6x6 ↔ inverse 6 128 2) ∧
    (s.accepts .idct12x12 ↔ inverse 12 128 2) ∧
    (s.accepts .quantInt ↔ quant 128 2 384) ∧ (s.accepts .quantFloat ↔ quant 256 4 256) ∧
    (s.accepts .qtblPrep ↔ s.src0.toNat % 2 = 0 ∧ s.dst0.toNat % 2 = 0 ∧ s.src0.toNat + 128 ≤ size ∧
      s.dst0.toNat + 384 ≤ size ∧ apart s.src0.toNat (s.src0.toNat + 128) s.dst0.toNat (s.dst0.toNat + 384))

/-- The colour commands (30_encoding.md R113, R114, R116): at least one row and one pixel, rows of the output that do not overlap,
every span inside the memory and every output apart from every input and every other output. -/
def Obligations.AcceptanceColour : Prop :=
  ∀ (s : State) (l : Layout),
    let size := s.cfg.dmemSize
    let n := s.nrows.toNat
    let w := s.width.toNat % 65536
    let p := layoutSize l
    let spanOf := fun (base stride bytes : Nat) => (base, rowsEnd base n stride bytes)
    let ss0 := s.sstride.toNat % 65536
    let ss1 := s.sstride.toNat / 65536
    let ds0 := s.dstride.toNat % 65536
    let ds1 := s.dstride.toNat / 65536
    let inside := fun x : Nat × Nat => x.2 ≤ size
    let clear := fun x y : Nat × Nat => apart x.1 x.2 y.1 y.2
    let pixelsIn := spanOf s.src0.toNat ss0 (w * p)
    let y0 := spanOf s.dst0.toNat ds0 w
    let y1 := spanOf s.dst1.toNat ds1 w
    let y2 := spanOf s.dst2.toNat ds1 w
    let a := spanOf s.src0.toNat ss0 w
    let b := spanOf s.src1.toNat ss1 w
    let c := spanOf s.src2.toNat ss1 w
    let pixelsOut := spanOf s.dst0.toNat ds0 (w * p)
    let packed := spanOf s.dst0.toNat ds0 (2 * w)
    (s.accepts (.rgbYcc l) ↔ 1 ≤ n ∧ 1 ≤ w ∧ inside pixelsIn ∧ inside y0 ∧ inside y1 ∧ inside y2 ∧ (n = 1 ∨ w ≤ ds0) ∧
      (n = 1 ∨ w ≤ ds1) ∧ clear pixelsIn y0 ∧ clear pixelsIn y1 ∧ clear pixelsIn y2 ∧ clear y0 y1 ∧ clear y0 y2 ∧ clear y1 y2) ∧
    (s.accepts (.rgbGray l) ↔ 1 ≤ n ∧ 1 ≤ w ∧ inside pixelsIn ∧ inside y0 ∧ (n = 1 ∨ w ≤ ds0) ∧ clear pixelsIn y0) ∧
    (s.accepts (.yccRgb l) ↔ 1 ≤ n ∧ 1 ≤ w ∧ inside a ∧ inside b ∧ inside c ∧ inside pixelsOut ∧ (n = 1 ∨ w * p ≤ ds0) ∧
      clear a pixelsOut ∧ clear b pixelsOut ∧ clear c pixelsOut) ∧
    (s.accepts .yccRgb565 ↔ 1 ≤ n ∧ 1 ≤ w ∧ s.dst0.toNat % 2 = 0 ∧ ds0 % 2 = 0 ∧ inside a ∧ inside b ∧ inside c ∧ inside packed ∧
      (n = 1 ∨ 2 * w ≤ ds0) ∧ clear a packed ∧ clear b packed ∧ clear c packed)

/-- The resampling commands (30_encoding.md R113, R114): the row counts and widths of inputs and outputs, the context rows one
stride around the rows `SRC0` names, and the constraints on the widths. -/
def Obligations.AcceptanceResample : Prop :=
  ∀ (s : State) (l : Layout),
    let size := s.cfg.dmemSize
    let n := s.nrows.toNat
    let w := s.width.toNat % 65536
    let w1 := s.width.toNat / 65536
    let h := (w + 1) / 2
    let ss0 := s.sstride.toNat % 65536
    let ss1 := s.sstride.toNat / 65536
    let ds0 := s.dstride.toNat % 65536
    let src := s.src0.toNat
    let dst := s.dst0.toNat
    let single := fun rowsIn rowsOut bytesOut : Nat =>
      rowsEnd src rowsIn ss0 w ≤ size ∧ rowsEnd dst rowsOut ds0 bytesOut ≤ size ∧ (rowsOut = 1 ∨ bytesOut ≤ ds0) ∧
        apart src (rowsEnd src rowsIn ss0 w) dst (rowsEnd dst rowsOut ds0 bytesOut)
    let around := fun bytesOut : Nat =>
      ss0 ≤ src ∧ rowsEnd src (n + 1) ss0 w ≤ size ∧ rowsEnd dst (2 * n) ds0 bytesOut ≤ size ∧ bytesOut ≤ ds0 ∧
        apart (src - ss0) (rowsEnd src (n + 1) ss0 w) dst (rowsEnd dst (2 * n) ds0 bytesOut)
    let merged := fun k : Nat =>
      let out := rowsEnd dst (k * n) ds0 (w * layoutSize l)
      rowsEnd src (k * n) ss0 w ≤ size ∧ rowsEnd s.src1.toNat n ss1 h ≤ size ∧ rowsEnd s.src2.toNat n ss1 h ≤ size ∧ out ≤ size ∧
        (k * n = 1 ∨ w * layoutSize l ≤ ds0) ∧ apart src (rowsEnd src (k * n) ss0 w) dst out ∧
        apart s.src1.toNat (rowsEnd s.src1.toNat n ss1 h) dst out ∧ apart s.src2.toNat (rowsEnd s.src2.toNat n ss1 h) dst out
    (s.accepts .downH2v1 ↔ 1 ≤ n ∧ 1 ≤ w ∧ 1 ≤ w1 ∧ w ≤ 2 * w1 ∧ single n n w1) ∧
    (s.accepts .downH2v2 ↔ 1 ≤ n ∧ 1 ≤ w ∧ 1 ≤ w1 ∧ w ≤ 2 * w1 ∧ single (2 * n) n w1) ∧
    (s.accepts .upH2v1Box ↔ 1 ≤ n ∧ 1 ≤ w ∧ single n n (2 * w)) ∧
    (s.accepts .upH2v2Box ↔ 1 ≤ n ∧ 1 ≤ w ∧ single n (2 * n) (2 * w)) ∧
    (s.accepts .upH2v1Fancy ↔ 1 ≤ n ∧ 2 ≤ w ∧ single n n (2 * w)) ∧
    (s.accepts .upH1v2Fancy ↔ 1 ≤ n ∧ 1 ≤ w ∧ around w) ∧
    (s.accepts .upH2v2Fancy ↔ 1 ≤ n ∧ 2 ≤ w ∧ around (2 * w)) ∧
    (s.accepts (.mergedH2v1 l) ↔ 1 ≤ n ∧ 1 ≤ w ∧ merged 1) ∧
    (s.accepts (.mergedH2v2 l) ↔ 1 ≤ n ∧ 1 ≤ w ∧ merged 2)

/-! ## Control and forward DCT -/

/-- `NOP` completes from every state, writes nothing but `STATUS`, raises the interrupt where it is enabled, is the command of the word 0,
and a word with `OP = 0` and any other bit fails with `ERR_RESERVED` (40_control.md R140). After reset `CMD = 0`, so a `START`
alone runs it. -/
def Obligations.NopCompletes : Prop :=
  (∀ s : State, exec .nop s = .next { s with busy := false, done := true, err := false, errCode := 0#8 } ∧
      ∀ t, exec .nop s = .next t → t.irq = s.irqEn) ∧
    decode 0#32 = .ok .nop ∧
    (∀ (s : State) (rest : List Turn), s.engineNext rest → s.busy = true → s.cmd.toNat % 256 = 0 → s.cmd.toNat / 256 ≠ 0 →
      step s = .next ({ s with agenda := rest }.failed 0x02#8)) ∧
    ∃ t u, step { State.reset with agenda := [.host (.regWrite 0x08#8 .word 0x1#32), .engine] } = .next t ∧
      step t = .next u ∧ u.readReg 0x0C#8 = 0x00000002#32

/-- `FDCT_ISLOW`, accepted, completes; pass 1 over the rows and pass 2 over the columns are the sums of products of its constants,
rounded half up where 41_fdct.md R153 rounds; every result fits 16 bits, is stored whole at `DST0 + 2(8u + v)` (R151, R152)
and lies in `-8192 .. 8192` (R162); no other byte changes. -/
def Obligations.FdctIslowOutput : Prop :=
  ∀ s : State, s.accepts .fdctIslow → ∃ (ws : Nat → Nat → Int) (m : Memory), exec .fdctIslow s = .next (s.succeeded m) ∧
    (∀ y k, y < 8 → k < 8 → ws y k =
      if k % 4 = 0 then dot (forwardWeights k) (fun x => shifted s y x) * 4
      else (dot (forwardWeights k) (fun x => shifted s y x) + 1024) / 2048) ∧
    (∀ u v, u < 8 → v < 8 → Memory.i16 m (s.dst0.toNat + 2 * (8 * u + v)) =
      if u % 4 = 0 then (dot (forwardWeights u) (fun y => ws y v) + 2) / 4
      else (dot (forwardWeights u) (fun y => ws y v) + 16384) / 32768) ∧
    (∀ u v, u < 8 → v < 8 → -8192 ≤ Memory.i16 m (s.dst0.toNat + 2 * (8 * u + v)) ∧
      Memory.i16 m (s.dst0.toNat + 2 * (8 * u + v)) ≤ 8192) ∧
    sameOutside s.mem m s.dst0.toNat 128

/-- `FDCT_IFAST`, accepted, completes with the network of 41_fdct.md R156 on rows and then columns, every result stored whole
(R151, R152); no other byte changes. -/
def Obligations.FdctIfastOutput : Prop :=
  ∀ s : State, s.accepts .fdctIfast → ∃ m, exec .fdctIfast s = .next (s.succeeded m) ∧
    (∀ u v, u < 8 → v < 8 → Memory.i16 m (s.dst0.toNat + 2 * (8 * u + v)) =
      fastForward (fun y => fastForward (fun x => shifted s y x) v) u) ∧
    sameOutside s.mem m s.dst0.toNat 128

/-- `FDCT_FLOAT`, accepted, completes with the network of 41_fdct.md R159 on rows and then columns in binary32, stored at
`DST0 + 4(8u + v)` (R151, R152, R160); no other byte changes. The samples enter the network exactly. -/
def Obligations.FdctFloatOutput : Prop :=
  IntegersAreExact ∧
  ∀ s : State, s.accepts .fdctFloat → ∃ m, exec .fdctFloat s = .next (s.succeeded m) ∧
    (∀ u v, u < 8 → v < 8 → Memory.f32 m (s.dst0.toNat + 4 * (8 * u + v)) =
      floatForward (fun y => floatForward (fun x => floatOfInt (shifted s y x)) v) u) ∧
    sameOutside s.mem m s.dst0.toNat 256

/-- The flat-block law: where all 64 samples equal `c`, the DC coefficient is `64(c - 128)` and every other one 0, in each variant
(41_fdct.md R161). In the float variant the DC output stands for that integer exactly and the AC outputs are `+0.0`. -/
def Obligations.FlatBlockLaw : Prop :=
  ∀ (s : State) (c : Int), (∀ y x, y < 8 → x < 8 → shifted s y x = c - 128) →
    (∀ i, i = .fdctIslow ∨ i = .fdctIfast → s.accepts i → ∃ m, exec i s = .next (s.succeeded m) ∧
      ∀ u v, u < 8 → v < 8 → Memory.i16 m (s.dst0.toNat + 2 * (8 * u + v)) = if u = 0 ∧ v = 0 then 64 * (c - 128) else 0) ∧
    (s.accepts .fdctFloat → ∃ m, exec .fdctFloat s = .next (s.succeeded m) ∧
      isFinite (Memory.f32 m s.dst0.toNat) ∧ units (Memory.f32 m s.dst0.toNat) = 64 * (c - 128) * 2 ^ 149 ∧
      ∀ u v, u < 8 → v < 8 → ¬ (u = 0 ∧ v = 0) → Memory.f32 m (s.dst0.toNat + 4 * (8 * u + v)) = 0x00000000#32)

/-! ## Quantizer -/

/-- `QUANT_INT`, accepted, completes with the procedure of 42_quant.md R182 on every element, for every table; no other byte
changes. -/
def Obligations.QuantIntOutput : Prop :=
  ∀ s : State, s.accepts .quantInt → ∃ m, exec .quantInt s = .next (s.succeeded m) ∧
    (∀ k, k < 64 →
      let x := Memory.i16 s.mem (s.src0.toNat + 2 * k)
      let recip : Int := (Memory.u16 s.mem (s.tbl.toNat + 2 * k) : Int)
      let corr : Int := (Memory.u16 s.mem (s.tbl.toNat + 128 + 2 * k) : Int)
      let shift := Memory.i16 s.mem (s.tbl.toNat + 256 + 2 * k) + 16
      let p := ((x.natAbs : Int) + corr) * recip
      let q := if 0 ≤ shift then p / 2 ^ shift.toNat else p * 2 ^ (-shift).toNat
      let y := if x < 0 then -q else q
      Memory.i16 m (s.dst0.toNat + 2 * k) = (y + 32768) % 65536 - 32768) ∧
    sameOutside s.mem m s.dst0.toNat 128

/-- The exactness law: with the entry `QTBL_PREP` makes of a divisor `d`, the result is `|x| / d` rounded half up in magnitude, with
the sign of `x`, for every `d` and every `|x| <= 32768` (42_quant.md R184); in memory, where every entry of the table
is prepared, the stored element is that result. -/
def Obligations.QuantExactness : Prop :=
  (∀ (d : Nat) (x : Int), 1 ≤ d → d ≤ 65535 → x.natAbs ≤ 32768 →
    quantInt (prepareEntry d) x = x.sign * (((2 * x.natAbs + d) / (2 * d) : Nat) : Int)) ∧
  (∀ (s : State) (d : Nat → Nat), s.accepts .quantInt →
    (∀ k, k < 64 → 1 ≤ d k ∧ d k ≤ 65535 ∧ readEntry s.mem s.tbl.toNat k = prepareEntry (d k)) →
    ∃ m, exec .quantInt s = .next (s.succeeded m) ∧ ∀ k, k < 64 →
      let x := Memory.i16 s.mem (s.src0.toNat + 2 * k)
      Memory.i16 m (s.dst0.toNat + 2 * k) = x.sign * (((2 * x.natAbs + d k) / (2 * d k) : Nat) : Int))

/-- `QTBL_PREP`, accepted and with no zero divisor, completes; entry by entry the table holds the identity for the divisor 1, the
half power for a power of two, and else the reciprocal rounded down with a raised correction or rounded up
(42_quant.md R180, R189, R191); no other byte changes. -/
def Obligations.QtblPrepOutput : Prop :=
  ∀ s : State, s.accepts .qtblPrep → (∀ k, k < 64 → Memory.u16 s.mem (s.src0.toNat + 2 * k) ≠ 0) →
    ∃ m, exec .qtblPrep s = .next (s.succeeded m) ∧
      (∀ k, k < 64 →
        let d := Memory.u16 s.mem (s.src0.toNat + 2 * k)
        let recip := Memory.u16 m (s.dst0.toNat + 2 * k)
        let corr := Memory.u16 m (s.dst0.toNat + 128 + 2 * k)
        let shift := Memory.i16 m (s.dst0.toNat + 256 + 2 * k)
        (d = 1 → recip = 1 ∧ corr = 0 ∧ shift = -16) ∧
        (∀ b : Nat, 2 ^ b ≤ d → d < 2 ^ (b + 1) → 2 ≤ d →
          (d = 2 ^ b → recip = 2 ^ 15 ∧ corr = d / 2 ∧ shift = (b : Int) - 1) ∧
          (d ≠ 2 ^ b → 2 ^ (16 + b) % d ≤ d / 2 → recip = 2 ^ (16 + b) / d ∧ corr = d / 2 + 1 ∧ shift = (b : Int)) ∧
          (d / 2 < 2 ^ (16 + b) % d → recip = 2 ^ (16 + b) / d + 1 ∧ corr = d / 2 ∧ shift = (b : Int)))) ∧
      sameOutside s.mem m s.dst0.toNat 384

/-- Every prepared entry fits its fields (42_quant.md R181, R191): the reciprocal is 1 for the divisor 1 and else at least `2^15` and below
`2^16`, the correction is at most 32768, and the shift is -16 exactly for the divisor 1 and else 0 to 15. -/
def Obligations.PreparedEntryFits : Prop :=
  ∀ d : Nat, 1 ≤ d → d ≤ 65535 →
    let q := prepareEntry d
    0 ≤ q.corr ∧ q.corr ≤ 32768 ∧ (d = 1 → q.recip = 1 ∧ q.corr = 0 ∧ q.shift = -16) ∧
      (2 ≤ d → 2 ^ 15 ≤ q.recip ∧ q.recip < 2 ^ 16 ∧ 0 ≤ q.shift ∧ q.shift ≤ 15 ∧
        (q.recip * (d : Int) - 2 ^ (16 + q.shift.toNat)).natAbs < d)

/-- A divisor 0 fails with `ERR_DATA` after every other check has passed, and no table byte is written (42_quant.md R190). -/
def Obligations.QtblPrepZeroDivisor : Prop :=
  ∀ s : State, (∃ k, k < 64 ∧ Memory.u16 s.mem (s.src0.toNat + 2 * k) = 0) →
    (s.accepts .qtblPrep → exec .qtblPrep s = .next (s.failed 0x07#8)) ∧
    (¬ s.accepts .qtblPrep → ∃ code, code ≠ 0x07#8 ∧ exec .qtblPrep s = .next (s.failed code))

/-- `QUANT_FLOAT`, accepted, completes with the procedure of 42_quant.md R186 on every element in both modes of `FLOAT_QUANT_OP` (R188), with
the conversion of R187 spelled out; no other byte changes. -/
def Obligations.QuantFloatOutput : Prop :=
  ∀ s : State, s.accepts .quantFloat → ∃ m, exec .quantFloat s = .next (s.succeeded m) ∧
    (∀ k, k < 64 →
      let w := Memory.f32 s.mem (s.src0.toNat + 4 * k)
      let f := Memory.f32 s.mem (s.tbl.toNat + 4 * k)
      let t := if s.cfg.floatQuant = .divide then fdiv w f else fmul w f
      let v := fadd t 0x46800100#32
      ∃ c : Int, Converts v c ∧ Memory.i16 m (s.dst0.toNat + 2 * k) = (c - 16384 + 32768) % 65536 - 32768) ∧
    sameOutside s.mem m s.dst0.toNat 128

/-! ## Inverse DCT -/

/-- `IDCT_ISLOW`, accepted, completes: both passes are the sums of products of 43_idct.md R205 rounded half up by `2^11` and `2^18`, limited to
samples in either mode (R202), one sample at each `DST0 + y*DS0 + x`; no other byte changes (R200, R204, R206). -/
def Obligations.IdctIslowOutput : Prop := InverseAgrees .idctIslow 8 inverseWeights 11 18

/-- `IDCT_2X2` and `IDCT_4X4`, accepted, complete with the sums of products of 43_idct.md R215 and R218, descaled by 13 and 20, 12 and 19; what
the networks do not read has weight 0 (R200, R202, R214). -/
def Obligations.IdctQuadrantSizesOutput : Prop :=
  InverseAgrees .idct2x2 2 inverseWeights2 13 20 ∧ InverseAgrees .idct4x4 4 inverseWeights4 12 19

/-- `IDCT_6X6` and `IDCT_12X12`, accepted, complete with the sums of products of 43_idct.md R221 and R224, descaled by 11 and 18: where those
networks add their bias in advance or shift early the result is the same (R200, R202, R214). -/
def Obligations.IdctPointSizesOutput : Prop :=
  InverseAgrees .idct6x6 6 inverseWeights6 11 18 ∧ InverseAgrees .idct12x12 12 inverseWeights12 11 18

/-- `IDCT_IFAST`, accepted, completes with the network of 43_idct.md R208 on columns and then rows, and the last shift in both modes of
`IFAST_OUTPUT_ROUNDING` (R200, R202, R204, R209, R210); no other byte changes. -/
def Obligations.IdctIfastOutput : Prop :=
  ∀ s : State, s.accepts .idctIfast → ∃ m, exec .idctIfast s = .next (s.succeeded m) ∧
    (∀ y x, y < 8 → x < 8 →
      let r := fastInverse (fun v => fastInverse (fun u => dequantized s u v) y) x
      let f := if s.cfg.ifastRounding = .bias then (r + 16) / 32 else r / 32
      Memory.s8 m (s.dst0.toNat + y * (s.dstride.toNat % 65536) + x) = limited s.cfg.rangeLimit f) ∧
    sameOutsideRows s.mem m s.dst0.toNat 8 (s.dstride.toNat % 65536) 8

/-- `IDCT_FLOAT`, accepted, completes with the network of 43_idct.md R211 on columns and then, with 128.5 added to the first value of each
row, on rows, truncated and limited in either mode (R201, R204, R212, R213); no other byte changes. The coefficients enter the
network exactly (R201), and every sample is limited from the integer that R213 takes from 42_quant.md R187: the value truncated,
or the fixed integer of an infinity or NaN. -/
def Obligations.IdctFloatOutput : Prop :=
  IntegersAreExact ∧
  ∀ s : State, s.accepts .idctFloat → ∃ m, exec .idctFloat s = .next (s.succeeded m) ∧
    (∀ y x, y < 8 → x < 8 →
      let z := fun u v => fmul (floatOfInt (Memory.i16 s.mem (s.src0.toNat + 2 * (8 * u + v))))
        (Memory.f32 s.mem (s.tbl.toNat + 4 * (8 * u + v)))
      let ws := fun v => floatInverse (fun u => z u v) y
      let r := floatInverse (fun v => if v = 0 then fadd (ws 0) 0x43008000#32 else ws v) x
      ∃ c : Int, Converts r c ∧
        Memory.s8 m (s.dst0.toNat + y * (s.dstride.toNat % 65536) + x) = floatLimited s.cfg.rangeLimit c) ∧
    sameOutsideRows s.mem m s.dst0.toNat 8 (s.dstride.toNat % 65536) 8

/-- The DC-only law of the integer variants: where the 63 AC coefficients are 0, whatever their multipliers, every output sample is
the value of 43_idct.md R227 (R207). -/
def Obligations.DcOnlyIntegerLaw : Prop :=
  ∀ (s : State) (i : Instr) (n : Nat), (∀ k, 1 ≤ k → k < 64 → Memory.i16 s.mem (s.src0.toNat + 2 * k) = 0) →
    (i, n) ∈ [(.idctIslow, 8), (.idct2x2, 2), (.idct4x4, 4), (.idct6x6, 6), (.idct12x12, 12), (.idctIfast, 8)] → s.accepts i →
    ∃ m, exec i s = .next (s.succeeded m) ∧ ∀ y x, y < n → x < n →
      Memory.s8 m (s.dst0.toNat + y * (s.dstride.toNat % 65536) + x) =
        limited s.cfg.rangeLimit
          (if i = .idctIfast then
            (if s.cfg.ifastRounding = .bias then (dequantized s 0 0 + 16) / 32 else dequantized s 0 0 / 32)
          else (dequantized s 0 0 + 4) / 8)

/-- The DC-only law of `IDCT_FLOAT`: where the 63 AC coefficients are 0 and their multipliers finite, every output sample is the value of
43_idct.md R227 (R207), limited from the integer of R213; the DC multiplier may be any encoding, an infinity or NaN too. -/
def Obligations.DcOnlyFloatLaw : Prop :=
  IntegersAreExact ∧
  ∀ s : State, s.accepts .idctFloat →
    (∀ k, 1 ≤ k → k < 64 →
      Memory.i16 s.mem (s.src0.toNat + 2 * k) = 0 ∧ isFinite (Memory.f32 s.mem (s.tbl.toNat + 4 * k))) →
    ∃ (m : Memory) (c : Int), exec .idctFloat s = .next (s.succeeded m) ∧
      Converts (fadd (fmul (floatOfInt (Memory.i16 s.mem s.src0.toNat)) (Memory.f32 s.mem s.tbl.toNat)) 0x43008000#32) c ∧
      ∀ y x, y < 8 → x < 8 →
        Memory.s8 m (s.dst0.toNat + y * (s.dstride.toNat % 65536) + x) = floatLimited s.cfg.rangeLimit c

/-! ## Colour conversion -/

/-- `RGB_YCC` and `RGB_GRAY`, accepted, complete with the samples of 44_color.md R251 of every pixel of every layout (R252, R253, R255;
30_encoding.md R116), stored unclamped because they fit; no other byte changes. -/
def Obligations.RgbToYccOutput : Prop :=
  ∀ (s : State) (l : Layout),
    let n := s.nrows.toNat
    let w := s.width.toNat % 65536
    let ds0 := s.dstride.toNat % 65536
    let ds1 := s.dstride.toNat / 65536
    let pixel := fun r j => s.src0.toNat + r * (s.sstride.toNat % 65536) + j * layoutSize l
    let red := fun r j => Memory.s8 s.mem (pixel r j + (layoutRow l).2.1)
    let green := fun r j => Memory.s8 s.mem (pixel r j + (layoutRow l).2.2.1)
    let blue := fun r j => Memory.s8 s.mem (pixel r j + (layoutRow l).2.2.2.1)
    (s.accepts (.rgbYcc l) → ∃ m, exec (.rgbYcc l) s = .next (s.succeeded m) ∧
      (∀ r j, r < n → j < w →
        Memory.s8 m (s.dst0.toNat + r * ds0 + j) = lumaSample (red r j) (green r j) (blue r j) ∧
        Memory.s8 m (s.dst1.toNat + r * ds1 + j) = cbSample (red r j) (green r j) (blue r j) ∧
        Memory.s8 m (s.dst2.toNat + r * ds1 + j) = crSample (red r j) (green r j) (blue r j)) ∧
      ∀ a, (∀ r j, r < n → j < w → a ≠ s.dst0.toNat + r * ds0 + j ∧ a ≠ s.dst1.toNat + r * ds1 + j ∧
        a ≠ s.dst2.toNat + r * ds1 + j) → Memory.read m a = Memory.read s.mem a) ∧
    (s.accepts (.rgbGray l) →
      SamplesAgree s (.rgbGray l) n w fun r j => lumaSample (red r j) (green r j) (blue r j))

/-- `Y`, `Cb` and `Cr` of 44_color.md R251 lie in `0 .. 255` for all samples `R, G, B` (R254). -/
def Obligations.ForwardColourRange : Prop :=
  ∀ r g b : Int, 0 ≤ r → r ≤ 255 → 0 ≤ g → g ≤ 255 → 0 ≤ b → b ≤ 255 →
    let p := toYcc ⟨r, g, b⟩
    0 ≤ p.a ∧ p.a ≤ 255 ∧ 0 ≤ p.b ∧ p.b ≤ 255 ∧ 0 ≤ p.c ∧ p.c ≤ 255

/-- The round trip of 44_color.md R262 is within 1 in every channel, for all 16,777,216 pixels; and its table of six colours. -/
def Obligations.ColourRoundTrip : Prop :=
  (∀ r g b : Int, 0 ≤ r → r ≤ 255 → 0 ≤ g → g ≤ 255 → 0 ≤ b → b ≤ 255 →
    let q := toRgb (toYcc ⟨r, g, b⟩)
    (q.a - r).natAbs ≤ 1 ∧ (q.b - g).natAbs ≤ 1 ∧ (q.c - b).natAbs ≤ 1) ∧
  [toYcc ⟨0, 0, 0⟩, toYcc ⟨255, 255, 255⟩, toYcc ⟨255, 0, 0⟩, toYcc ⟨0, 255, 0⟩, toYcc ⟨0, 0, 255⟩, toYcc ⟨128, 128, 128⟩] =
    [⟨0, 128, 128⟩, ⟨255, 128, 128⟩, ⟨76, 85, 255⟩, ⟨150, 44, 21⟩, ⟨29, 255, 107⟩, ⟨128, 128, 128⟩] ∧
  [toRgb ⟨0, 128, 128⟩, toRgb ⟨255, 128, 128⟩, toRgb ⟨76, 85, 255⟩, toRgb ⟨150, 44, 21⟩, toRgb ⟨29, 255, 107⟩,
      toRgb ⟨128, 128, 128⟩] =
    [⟨0, 0, 0⟩, ⟨255, 255, 255⟩, ⟨254, 0, 0⟩, ⟨0, 255, 1⟩, ⟨0, 0, 254⟩, ⟨128, 128, 128⟩]

/-- `YCC_RGB` and `YCC_RGB565`, accepted, complete with the channels of 44_color.md R257 of every pixel, in every layout with its filler byte
(R258, R259; 30_encoding.md R116) or packed 5:6:5 little-endian (R260, R261); no other byte changes. -/
def Obligations.YccToRgbOutput : Prop :=
  ∀ (s : State) (l : Layout),
    let n := s.nrows.toNat
    let w := s.width.toNat % 65536
    let ds0 := s.dstride.toNat % 65536
    let y := source s
    let cb := fun r j => Memory.s8 s.mem (s.src1.toNat + r * (s.sstride.toNat / 65536) + j)
    let cr := fun r j => Memory.s8 s.mem (s.src2.toNat + r * (s.sstride.toNat / 65536) + j)
    let red := fun r j => redSample (y r j) (cr r j)
    let green := fun r j => greenSample (y r j) (cb r j) (cr r j)
    let blue := fun r j => blueSample (y r j) (cb r j)
    (s.accepts (.yccRgb l) → ∃ m, exec (.yccRgb l) s = .next (s.succeeded m) ∧
      (∀ r j, r < n → j < w →
        PixelIs m s.cfg.filler l (s.dst0.toNat + r * ds0 + j * layoutSize l) (red r j) (green r j) (blue r j)) ∧
      sameOutsideRows s.mem m s.dst0.toNat n ds0 (w * layoutSize l)) ∧
    (s.accepts .yccRgb565 → ∃ m, exec .yccRgb565 s = .next (s.succeeded m) ∧
      (∀ r j, r < n → j < w → (Memory.u16 m (s.dst0.toNat + r * ds0 + 2 * j) : Int) =
        red r j / 8 * 2048 + green r j / 4 * 32 + blue r j / 8) ∧
      sameOutsideRows s.mem m s.dst0.toNat n ds0 (2 * w))

/-! ## Resampling -/

/-- `DOWN_H2V1` and `DOWN_H2V2`, accepted, complete with the rounded averages of 45_resample.md R292 and R294, the right edge replicated
(R291) and the bias alternating from 0 or 1 in every row; no other byte changes. -/
def Obligations.DownsampleOutput : Prop :=
  ∀ s : State,
    let n := s.nrows.toNat
    let w1 := s.width.toNat / 65536
    let ext := fun r j => source s r (min j (s.width.toNat % 65536 - 1))
    (s.accepts .downH2v1 → SamplesAgree s .downH2v1 n w1 fun r j =>
      (ext r (2 * j) + ext r (2 * j + 1) + (if j % 2 = 0 then 0 else 1)) / 2) ∧
    (s.accepts .downH2v2 → SamplesAgree s .downH2v2 n w1 fun r j =>
      (ext (2 * r) (2 * j) + ext (2 * r) (2 * j + 1) + ext (2 * r + 1) (2 * j) + ext (2 * r + 1) (2 * j + 1) +
        (if j % 2 = 0 then 1 else 2)) / 4)

/-- `UP_H2V1_BOX` and `UP_H2V2_BOX`, accepted, complete with every sample replicated to 2 or 4 places (45_resample.md R296 to R298); no
other byte changes. -/
def Obligations.BoxUpsampleOutput : Prop :=
  ∀ s : State,
    let n := s.nrows.toNat
    let w := s.width.toNat % 65536
    (s.accepts .upH2v1Box → SamplesAgree s .upH2v1Box n (2 * w) fun r j => source s r (j / 2)) ∧
    (s.accepts .upH2v2Box → SamplesAgree s .upH2v2Box (2 * n) (2 * w) fun r j => source s (r / 2) (j / 2))

/-- `UP_H2V1_FANCY`, accepted, completes with the 3:1 blends of 45_resample.md R301, biased 1 toward the sample before and 2 toward the sample
after, and the first and last sample of a row copied (R300, R302); no other byte changes. -/
def Obligations.FancyHorizontalOutput : Prop :=
  ∀ s : State, s.accepts .upH2v1Fancy → ∃ m, exec .upH2v1Fancy s = .next (s.succeeded m) ∧
    (∀ r, r < s.nrows.toNat →
      let w := s.width.toNat % 65536
      target s m r 0 = source s r 0 ∧ target s m r (2 * w - 1) = source s r (w - 1) ∧
        (∀ j, 1 ≤ j → j < w → target s m r (2 * j) = (3 * source s r j + source s r (j - 1) + 1) / 4) ∧
        (∀ j, j + 1 < w → target s m r (2 * j + 1) = (3 * source s r j + source s r (j + 1) + 2) / 4)) ∧
    sameOutsideRows s.mem m s.dst0.toNat s.nrows.toNat (s.dstride.toNat % 65536) (2 * (s.width.toNat % 65536))

/-- `UP_H1V2_FANCY`, accepted, completes with the vertical 3:1 blends of 45_resample.md R304, upper row with bias 1 and lower row with
bias 2, over the context rows of R303; no other byte changes. -/
def Obligations.FancyVerticalOutput : Prop :=
  ∀ s : State, s.accepts .upH1v2Fancy → ∃ m, exec .upH1v2Fancy s = .next (s.succeeded m) ∧
    (∀ r j, r < s.nrows.toNat → j < s.width.toNat % 65536 →
      target s m (2 * r) j = (3 * context s (r + 1) j + context s r j + 1) / 4 ∧
        target s m (2 * r + 1) j = (3 * context s (r + 1) j + context s (r + 2) j + 2) / 4) ∧
    sameOutsideRows s.mem m s.dst0.toNat (2 * s.nrows.toNat) (s.dstride.toNat % 65536) (s.width.toNat % 65536)

/-- `UP_H2V2_FANCY`, accepted, completes with the 9:3:3:1 blends of 45_resample.md R307 and R308 in the middle, with bias 8 or 7, and the 12:4
blends of the edge columns; no other byte changes (R303). -/
def Obligations.FancyPlaneOutput : Prop :=
  ∀ s : State, s.accepts .upH2v2Fancy → ∃ m, exec .upH2v2Fancy s = .next (s.succeeded m) ∧
    (∀ r v, r < s.nrows.toNat → v < 2 →
      let w := s.width.toNat % 65536
      let near := context s (r + 1)
      let far := context s (r + 2 * v)
      target s m (2 * r + v) 0 = (12 * near 0 + 4 * far 0 + 8) / 16 ∧
        target s m (2 * r + v) (2 * w - 1) = (12 * near (w - 1) + 4 * far (w - 1) + 7) / 16 ∧
        (∀ j, 1 ≤ j → j < w → target s m (2 * r + v) (2 * j) =
          (9 * near j + 3 * near (j - 1) + 3 * far j + far (j - 1) + 8) / 16) ∧
        (∀ j, j + 1 < w → target s m (2 * r + v) (2 * j + 1) =
          (9 * near j + 3 * near (j + 1) + 3 * far j + far (j + 1) + 7) / 16)) ∧
    sameOutsideRows s.mem m s.dst0.toNat (2 * s.nrows.toNat) (s.dstride.toNat % 65536) (2 * (s.width.toNat % 65536))

/-- The constant laws and the edge law: `DOWN_H2V1` and `DOWN_H2V2` turn rows that are all `c` into `c` (45_resample.md R293);
`UP_H2V1_FANCY` copies both ends of every row and turns a row of `c` into a row of `c` (R302); where a row and both rows around it are
`c`, both output rows of `UP_H1V2_FANCY` and `UP_H2V2_FANCY` for it are `c` (R306). -/
def Obligations.ResampleConstantLaws : Prop :=
  ∀ (s : State) (c : Int),
    let n := s.nrows.toNat
    let w := s.width.toNat % 65536
    let w1 := s.width.toNat / 65536
    let down := fun (i : Instr) (k : Nat) =>
      (∀ r j, r < k * n → j < w → source s r j = c) → s.accepts i →
        ∃ m, exec i s = .next (s.succeeded m) ∧ ∀ r j, r < n → j < w1 → target s m r j = c
    let vertical := fun (i : Instr) (columns : Nat) =>
      s.accepts i → ∃ m, exec i s = .next (s.succeeded m) ∧
        ∀ r, r < n → (∀ v j, v < 3 → j < w → context s (r + v) j = c) →
          ∀ v j, v < 2 → j < columns → target s m (2 * r + v) j = c
    down .downH2v1 1 ∧ down .downH2v2 2 ∧
    (s.accepts .upH2v1Fancy → ∃ m, exec .upH2v1Fancy s = .next (s.succeeded m) ∧
      ∀ r, r < n → target s m r 0 = source s r 0 ∧ target s m r (2 * w - 1) = source s r (w - 1) ∧
        ((∀ j, j < w → source s r j = c) → ∀ j, j < 2 * w → target s m r j = c)) ∧
    vertical .upH1v2Fancy w ∧ vertical .upH2v2Fancy (2 * w)

/-- `MERGED_H2V1` and `MERGED_H2V2`, accepted, complete with the channels of 44_color.md R257 of every luma sample and the chroma sample that
serves it, in every layout with its filler byte (45_resample.md R309 to R312); no other byte changes. -/
def Obligations.MergedOutput : Prop :=
  ∀ (s : State) (l : Layout) (k : Nat),
    let i : Instr := if k = 1 then .mergedH2v1 l else .mergedH2v2 l
    let n := k * s.nrows.toNat
    let w := s.width.toNat % 65536
    let ds0 := s.dstride.toNat % 65536
    let cb := fun r j => Memory.s8 s.mem (s.src1.toNat + r * (s.sstride.toNat / 65536) + j)
    let cr := fun r j => Memory.s8 s.mem (s.src2.toNat + r * (s.sstride.toNat / 65536) + j)
    k = 1 ∨ k = 2 → s.accepts i → ∃ m, exec i s = .next (s.succeeded m) ∧
      (∀ r j, r < n → j < w →
        PixelIs m s.cfg.filler l (s.dst0.toNat + r * ds0 + j * layoutSize l)
          (redSample (source s r j) (cr (r / k) (j / 2)))
          (greenSample (source s r j) (cb (r / k) (j / 2)) (cr (r / k) (j / 2)))
          (blueSample (source s r j) (cb (r / k) (j / 2)))) ∧
      sameOutsideRows s.mem m s.dst0.toNat n ds0 (w * layoutSize l)

/-- The merged equivalence law: a merged command writes the pixels that box upsampling of `Cb` and `Cr`, followed by `YCC_RGB` with the same
layout, writes (45_resample.md R313). The four commands are run: `b` and `c` upsample the chroma rows that `s` reads, `y` converts
the luma rows of `s` with the planes they wrote, and every output pixel of `y` is the pixel of `s`, byte for byte. `y` may convert
any band of rows, from row `q` on: `MERGED_H2V2` can write more rows than one `YCC_RGB` can count. -/
def Obligations.MergedEquivalence : Prop :=
  ∀ (s b c y s' b' c' y' : State) (l : Layout) (k q : Nat),
    let merged : Instr := if k = 1 then .mergedH2v1 l else .mergedH2v2 l
    let box : Instr := if k = 1 then .upH2v1Box else .upH2v2Box
    let n := s.nrows.toNat
    let w := s.width.toNat % 65536
    let h := (w + 1) / 2
    let band := y.nrows.toNat
    k = 1 ∨ k = 2 → s.accepts merged → b.accepts box → c.accepts box → y.accepts (.yccRgb l) →
    exec merged s = .next s' → exec box b = .next b' → exec box c = .next c' → exec (.yccRgb l) y = .next y' →
    b.nrows = s.nrows → c.nrows = s.nrows → b.width.toNat % 65536 = h → c.width.toNat % 65536 = h →
    (∀ r j, r < n → j < h → source b r j = Memory.s8 s.mem (s.src1.toNat + r * (s.sstride.toNat / 65536) + j)) →
    (∀ r j, r < n → j < h → source c r j = Memory.s8 s.mem (s.src2.toNat + r * (s.sstride.toNat / 65536) + j)) →
    q + band ≤ k * n → y.width.toNat % 65536 = w → y.cfg.filler = s.cfg.filler →
    (∀ r j, r < band → j < w → source y r j = source s (q + r) j) →
    (∀ r j, r < band → j < w →
      Memory.s8 y.mem (y.src1.toNat + r * (y.sstride.toNat / 65536) + j) = target b b'.mem (q + r) j) →
    (∀ r j, r < band → j < w →
      Memory.s8 y.mem (y.src2.toNat + r * (y.sstride.toNat / 65536) + j) = target c c'.mem (q + r) j) →
    ∀ r j, r < band → j < w * layoutSize l →
      Memory.read s'.mem (s.dst0.toNat + (q + r) * (s.dstride.toNat % 65536) + j) =
        Memory.read y'.mem (y.dst0.toNat + r * (y.dstride.toNat % 65536) + j)

/-! ## Binary32 arithmetic -/

/-- `fadd` and `fsub`, on every pair of encodings. Of finite values: the exact sum and difference rounded to nearest, ties to even, with
subnormal numbers and overflow to infinity; an exact 0 is `-0.0` only where both addends are negative zeros or sum to it as such.
With a NaN the result is a NaN; an infinity stays itself against a finite value and against the like infinity, and against the
opposite one gives a NaN (00_scope.md R12). -/
def Obligations.FloatAddRoundsToNearest : Prop :=
  ∀ a b : F32,
    (isFinite a → isFinite b →
      (units a + units b ≠ 0 → RoundsTo (fadd a b) (units a + units b) 1) ∧
      (units a + units b = 0 → fadd a b = if 2 ^ 31 ≤ a.toNat ∧ 2 ^ 31 ≤ b.toNat then 0x80000000#32 else 0x00000000#32) ∧
      (units a - units b ≠ 0 → RoundsTo (fsub a b) (units a - units b) 1) ∧
      (units a - units b = 0 → fsub a b = if 2 ^ 31 ≤ a.toNat ∧ b.toNat < 2 ^ 31 then 0x80000000#32 else 0x00000000#32)) ∧
    (isNan a ∨ isNan b → isNan (fadd a b) ∧ isNan (fsub a b)) ∧
    (isInfinite a → isFinite b → fadd a b = a ∧ fsub a b = a) ∧
    (isFinite a → isInfinite b → fadd a b = b ∧ fsub a b = b ^^^ 0x80000000#32) ∧
    (isInfinite a → isInfinite b →
      (a = b → fadd a b = a ∧ isNan (fsub a b)) ∧ (a ≠ b → isNan (fadd a b) ∧ fsub a b = a))

/-- `fmul` and `fdiv`, on every pair of encodings. Of finite values: the exact product and quotient rounded to nearest, ties to even; a
product 0, a quotient of 0, and the infinity that is a quotient by 0, have the sign of the signs, and 0/0 is a NaN. With a NaN the
result is a NaN; an infinity gives an infinity or, as a divisor, a 0, with the sign of the signs, but infinity times 0 and
infinity by infinity are NaN (00_scope.md R12). -/
def Obligations.FloatMulDivRoundToNearest : Prop :=
  ∀ a b : F32,
    (isFinite a → isFinite b →
      (units a * units b ≠ 0 → RoundsTo (fmul a b) (units a * units b) (2 ^ 149)) ∧
      (units a * units b = 0 → fmul a b = signedAs a b 0x00000000#32) ∧
      (units a ≠ 0 → units b ≠ 0 → RoundsTo (fdiv a b) (units a * 2 ^ 149 * (units b).sign) (units b).natAbs) ∧
      (units a = 0 → units b ≠ 0 → fdiv a b = signedAs a b 0x00000000#32) ∧
      (units a ≠ 0 → units b = 0 → fdiv a b = signedAs a b 0x7F800000#32) ∧
      (units a = 0 → units b = 0 → isNan (fdiv a b))) ∧
    (isNan a ∨ isNan b → isNan (fmul a b) ∧ isNan (fdiv a b)) ∧
    (isInfinite a → isFinite b →
      (units b ≠ 0 → fmul a b = signedAs a b 0x7F800000#32) ∧ (units b = 0 → isNan (fmul a b)) ∧
      fdiv a b = signedAs a b 0x7F800000#32) ∧
    (isFinite a → isInfinite b →
      (units a ≠ 0 → fmul a b = signedAs a b 0x7F800000#32) ∧ (units a = 0 → isNan (fmul a b)) ∧
      fdiv a b = signedAs a b 0x00000000#32) ∧
    (isInfinite a → isInfinite b → fmul a b = signedAs a b 0x7F800000#32 ∧ isNan (fdiv a b))
end

