-- ==== Sys2Proof/Laws/Arith.lean ====
section
/-! SUPPORT. What the integer functions of 00_scope.md R10 and R11 are in terms of division and remainder, and what the bytes of
a little-endian value read back as. -/

namespace Sys2Proof.Machine

theorem asr_eq (x : Int) (n : Nat) : asr x n = x / ((2 ^ n : Nat) : Int) := rfl

theorem shl_eq (x : Int) (n : Nat) : shl x n = x * ((2 ^ n : Nat) : Int) := rfl

theorem descale_eq (x : Int) (n : Nat) : descale x n = (x + ((2 ^ (n - 1) : Nat) : Int)) / ((2 ^ n : Nat) : Int) := by
  simp [descale, asr_eq, shl_eq]

theorem asr_asr (x : Int) (k n : Nat) : asr (asr x k) n = asr x (k + n) := by
  simp only [asr_eq]
  rw [Int.ediv_ediv_of_nonneg (Int.natCast_nonneg _), ← Int.natCast_mul, ← Nat.pow_add]

@[simp] theorem asr_zero (x : Int) : asr x 0 = x := by simp [asr_eq]

/-- `wrap16` leaves every 16-bit value alone. -/
theorem wrap16_of_range {x : Int} (h1 : -32768 ≤ x) (h2 : x ≤ 32767) : wrap16 x = x := by
  unfold wrap16; omega

theorem wrap16_range (x : Int) : -32768 ≤ wrap16 x ∧ wrap16 x ≤ 32767 := by
  unfold wrap16; omega

theorem clamp_range (x : Int) {lo hi : Int} (h : lo ≤ hi) : lo ≤ clamp x lo hi ∧ clamp x lo hi ≤ hi := by
  unfold clamp; split
  · omega
  · split <;> omega

theorem toNat_toByte (v : Int) : ((toByte v).toNat : Int) = v % 256 := by
  simp [toByte, BitVec.toNat_ofInt]
  omega

/-- A sample stored in a byte reads back as itself. -/
theorem byteVal_toByte {v : Int} (h1 : 0 ≤ v) (h2 : v ≤ 255) : byteVal (toByte v) = v := by
  simp only [byteVal, toNat_toByte]; omega

namespace Memory

/-- The bytes of `MemWrite(a, n, v)` (20_memory.md R81). -/
theorem mem_cellsLE_iff {n a : Nat} {v : Int} {c : Host.Cell} :
    c ∈ cellsLE a v n ↔ ∃ k, k < n ∧ c = (a + k, toByte (asr v (8 * k))) := by
  induction n generalizing a v with
  | zero => simp [cellsLE]
  | succ n ih =>
    simp only [cellsLE, List.mem_cons, ih, asr_asr]
    constructor
    · rintro (rfl | ⟨k, hk, rfl⟩)
      · exact ⟨0, by omega, by simp⟩
      · exact ⟨k + 1, by omega, by rw [show a + (k + 1) = a + 1 + k by omega, show 8 * (k + 1) = 8 + 8 * k by omega]⟩
    · rintro ⟨k, hk, rfl⟩
      cases k with
      | zero => exact .inl (by simp)
      | succ k =>
        exact .inr ⟨k, by omega, by rw [show a + (k + 1) = a + 1 + k by omega, show 8 * (k + 1) = 8 + 8 * k by omega]⟩

/-- The low byte and the rest of a remainder. -/
theorem emod_split (v p : Int) : v % 256 + 256 * (v / 256 % p) = v % (256 * p) := by
  have h1 := Int.emod_add_mul_ediv v 256
  have h2 := Int.emod_add_mul_ediv (v / 256) p
  have h3 : v / 256 / p = v / (256 * p) := Int.ediv_ediv_of_nonneg (by decide)
  have h4 := Int.emod_add_mul_ediv v (256 * p)
  rw [← h3] at h4
  have h5 : 256 * p * (v / 256 / p) = 256 * (p * (v / 256 / p)) := Int.mul_assoc ..
  omega

/-- A value written byte by byte reads back modulo `256^n` (20_memory.md R81). -/
theorem readLE_of_bytes {m : Memory} {n a : Nat} {v : Int}
    (h : ∀ k, k < n → read m (a + k) = toByte (asr v (8 * k))) : (readLE m a n : Int) = v % ((256 ^ n : Nat) : Int) := by
  induction n generalizing a v with
  | zero => simp [readLE]
  | succ n ih =>
    have h0 : read m a = toByte v := by simpa using h 0 (by omega)
    have hs : (readLE m (a + 1) n : Int) = asr v 8 % ((256 ^ n : Nat) : Int) := by
      refine ih fun k hk => ?_
      rw [show a + 1 + k = a + (k + 1) by omega, h (k + 1) (by omega), asr_asr, show 8 * (k + 1) = 8 + 8 * k by omega]
    have hb : ((read m a).toNat : Int) = v % 256 := by rw [h0, toNat_toByte]
    simp only [readLE, Int.natCast_add, Int.natCast_mul, hb, hs, asr_eq]
    have hp : ((256 ^ (n + 1) : Nat) : Int) = 256 * ((256 ^ n : Nat) : Int) := by
      rw [Nat.pow_succ, Int.natCast_mul, Int.mul_comm]; rfl
    rw [hp]
    exact emod_split v _

theorem u16_of_bytes {m : Memory} {a : Nat} {v : Int} (h : ∀ k, k < 2 → read m (a + k) = toByte (asr v (8 * k))) :
    (u16 m a : Int) = v % 65536 := by
  simpa [u16] using readLE_of_bytes h

/-- A 16-bit value written and read as `I16` is wrapped to 16 bits (00_scope.md R11, R13). -/
theorem i16_of_bytes {m : Memory} {a : Nat} {v : Int} (h : ∀ k, k < 2 → read m (a + k) = toByte (asr v (8 * k))) :
    i16 m a = wrap16 v := by
  have := u16_of_bytes h
  unfold u16 at this
  unfold i16 sext16 wrap16
  split <;> omega

end Memory

end Sys2Proof.Machine
end

