-- ==== Sys2Proof/Laws/Memory.lean ====
section
/-! SUPPORT. The laws of the data memory: what is read after a write, and that every operation keeps the canonical form and
the bound on addresses. -/

namespace Sys2Proof.Machine.Memory

@[simp] theorem read_nil (a : Nat) : read [] a = blank := rfl

theorem read_erase_same (m : Memory) (a : Nat) : read (erase m a) a = blank := by
  induction m with
  | nil => rfl
  | cons c m ih => by_cases h : c.1 = a <;> simp [erase, read, h, ih]

theorem read_erase_other (m : Memory) {a x : Nat} (h : x ≠ a) : read (erase m a) x = read m x := by
  induction m with
  | nil => rfl
  | cons c m ih =>
    by_cases hc : c.1 = a
    · simp [erase, read, hc, ih, Ne.symm h]
    · simp only [erase, hc, if_false, read, ih]

theorem read_insert_same (c : Host.Cell) (m : Memory) (h : ∀ d ∈ m, d.1 ≠ c.1) : read (insert c m) c.1 = c.2 := by
  induction m with
  | nil => simp [insert, read]
  | cons d m ih =>
    by_cases hlt : c.1 < d.1
    · simp [insert, read, hlt]
    · have hd : d.1 ≠ c.1 := h d (by simp)
      simp [insert, read, hlt, hd, ih (fun e he => h e (by simp [he]))]

theorem read_insert_other (c : Host.Cell) (m : Memory) {x : Nat} (h : x ≠ c.1) : read (insert c m) x = read m x := by
  induction m with
  | nil => simp [insert, read, Ne.symm h]
  | cons d m ih => by_cases hlt : c.1 < d.1 <;> simp [insert, read, hlt, Ne.symm h, ih]

theorem mem_erase {m : Memory} {a : Nat} {d : Host.Cell} : d ∈ erase m a ↔ d ∈ m ∧ d.1 ≠ a := by
  induction m with
  | nil => simp [erase]
  | cons c m ih =>
    by_cases h : c.1 = a
    · simp only [erase, h, if_true, ih, List.mem_cons]
      constructor
      · rintro ⟨hd, hne⟩; exact ⟨.inr hd, hne⟩
      · rintro ⟨rfl | hd, hne⟩
        · exact absurd h hne
        · exact ⟨hd, hne⟩
    · simp only [erase, h, if_false, List.mem_cons, ih]
      constructor
      · rintro (rfl | ⟨hd, hne⟩)
        · exact ⟨.inl rfl, h⟩
        · exact ⟨.inr hd, hne⟩
      · rintro ⟨rfl | hd, hne⟩
        · exact .inl rfl
        · exact .inr ⟨hd, hne⟩

theorem mem_insert {m : Memory} {c d : Host.Cell} : d ∈ insert c m ↔ d = c ∨ d ∈ m := by
  induction m with
  | nil => simp [insert]
  | cons e m ih =>
    by_cases h : c.1 < e.1
    · simp [insert, h]
    · simp only [insert, h, if_false, List.mem_cons, ih]
      constructor
      · rintro (h | h | h) <;> simp [h]
      · rintro (h | h | h) <;> simp [h]

/-- A byte written is the byte read. -/
@[simp] theorem read_write_same (m : Memory) (a : Nat) (b : Byte) : read (write m a b) a = b := by
  by_cases h : b = blank
  · simp [write, h, read_erase_same]
  · simp only [write, h, if_false]
    exact read_insert_same (a, b) _ (fun d hd => (mem_erase.mp hd).2)

/-- A write leaves every other byte alone. -/
theorem read_write_other (m : Memory) {a x : Nat} (b : Byte) (h : x ≠ a) : read (write m a b) x = read m x := by
  by_cases hb : b = blank
  · simp [write, hb, read_erase_other m h]
  · simp only [write, hb, if_false]
    exact (read_insert_other (a, b) _ h).trans (read_erase_other m h)

theorem read_write (m : Memory) (a x : Nat) (b : Byte) : read (write m a b) x = if x = a then b else read m x := by
  by_cases h : x = a
  · subst h; simp
  · simp [h, read_write_other m b h]

/-! ## The canonical form -/

theorem rising_cons {c : Host.Cell} {m : Memory} :
    rising (c :: m) = true ↔ (∀ d ∈ m, c.1 < d.1) ∧ rising m = true := by
  simp [rising, List.all_eq_true, Nat.blt_eq]

theorem wf_iff {m : Memory} : wf m = true ↔ rising m = true ∧ ∀ d ∈ m, d.2 ≠ blank := by
  simp [wf, List.all_eq_true]

theorem within_iff {size : Nat} {m : Memory} : within size m = true ↔ ∀ d ∈ m, d.1 < size := by
  simp [within, List.all_eq_true, Nat.blt_eq]

theorem rising_erase {m : Memory} (h : rising m = true) (a : Nat) : rising (erase m a) = true := by
  induction m with
  | nil => exact h
  | cons c m ih =>
    obtain ⟨h1, h2⟩ := rising_cons.mp h
    by_cases hc : c.1 = a
    · simpa [erase, hc] using ih h2
    · simp only [erase, hc, if_false]
      exact rising_cons.mpr ⟨fun d hd => h1 d (mem_erase.mp hd).1, ih h2⟩

theorem rising_insert {m : Memory} (h : rising m = true) {c : Host.Cell} (hc : ∀ d ∈ m, d.1 ≠ c.1) :
    rising (insert c m) = true := by
  induction m with
  | nil => rfl
  | cons e m ih =>
    obtain ⟨h1, h2⟩ := rising_cons.mp h
    by_cases hlt : c.1 < e.1
    · simp only [insert, hlt, if_true]
      refine rising_cons.mpr ⟨fun d hd => ?_, h⟩
      rcases List.mem_cons.mp hd with rfl | hd
      · exact hlt
      · exact Nat.lt_trans hlt (h1 d hd)
    · simp only [insert, hlt, if_false]
      have hne : e.1 ≠ c.1 := hc e (by simp)
      refine rising_cons.mpr ⟨fun d hd => ?_, ih h2 fun d hd => hc d (by simp [hd])⟩
      rcases mem_insert.mp hd with rfl | hd
      · omega
      · exact h1 d hd

/-- A write keeps the canonical form. -/
theorem wf_write {m : Memory} (h : wf m = true) (a : Nat) (b : Byte) : wf (write m a b) = true := by
  obtain ⟨h1, h2⟩ := wf_iff.mp h
  by_cases hb : b = blank
  · simp only [write, hb, if_true]
    exact wf_iff.mpr ⟨rising_erase h1 a, fun d hd => h2 d (mem_erase.mp hd).1⟩
  · simp only [write, hb, if_false]
    refine wf_iff.mpr ⟨rising_insert (rising_erase h1 a) fun d hd => (mem_erase.mp hd).2, fun d hd => ?_⟩
    rcases mem_insert.mp hd with rfl | hd
    · exact hb
    · exact h2 d (mem_erase.mp hd).1

/-- A write below the size keeps every listed address below it. -/
theorem within_write {size : Nat} {m : Memory} (h : within size m = true) {a : Nat} (ha : a < size) (b : Byte) :
    within size (write m a b) = true := by
  have h2 := within_iff.mp h
  by_cases hb : b = blank
  · simp only [write, hb, if_true]
    exact within_iff.mpr fun d hd => h2 d (mem_erase.mp hd).1
  · simp only [write, hb, if_false]
    refine within_iff.mpr fun d hd => ?_
    rcases mem_insert.mp hd with rfl | hd
    · exact ha
    · exact h2 d (mem_erase.mp hd).1

/-! ## Many bytes -/

@[simp] theorem writeCells_nil (m : Memory) : writeCells m [] = m := rfl

@[simp] theorem writeCells_cons (m : Memory) (c : Host.Cell) (cs : List Host.Cell) :
    writeCells m (c :: cs) = writeCells (write m c.1 c.2) cs := rfl

theorem wf_writeCells (cs : List Host.Cell) {m : Memory} (h : wf m = true) : wf (writeCells m cs) = true := by
  induction cs generalizing m with
  | nil => exact h
  | cons c cs ih => exact ih (wf_write h c.1 c.2)

theorem within_writeCells {size : Nat} (cs : List Host.Cell) {m : Memory} (h : within size m = true)
    (hc : ∀ c ∈ cs, c.1 < size) : within size (writeCells m cs) = true := by
  induction cs generalizing m with
  | nil => exact h
  | cons c cs ih => exact ih (within_write h (hc c (by simp)) c.2) fun d hd => hc d (by simp [hd])

/-- A byte no cell names is left alone. -/
theorem read_writeCells_other (cs : List Host.Cell) (m : Memory) {x : Nat} (h : ∀ c ∈ cs, c.1 ≠ x) :
    read (writeCells m cs) x = read m x := by
  induction cs generalizing m with
  | nil => rfl
  | cons c cs ih =>
    rw [writeCells_cons, ih _ fun d hd => h d (by simp [hd])]
    exact read_write_other m c.2 (Ne.symm (h c (by simp)))

/-- A cell's byte is read back where every cell at its address holds the same byte. -/
theorem read_writeCells_mem (cs : List Host.Cell) (m : Memory) {x : Nat} {b : Byte} (hx : ∃ c ∈ cs, c.1 = x)
    (h : ∀ c ∈ cs, c.1 = x → c.2 = b) : read (writeCells m cs) x = b := by
  induction cs generalizing m with
  | nil => simp at hx
  | cons c cs ih =>
    rw [writeCells_cons]
    by_cases hlater : ∃ d ∈ cs, d.1 = x
    · exact ih _ hlater fun d hd => h d (by simp [hd])
    · obtain ⟨d, hd, hdx⟩ := hx
      rcases List.mem_cons.mp hd with rfl | hd
      · rw [read_writeCells_other cs _ fun e he hex => hlater ⟨e, he, hex⟩, ← hdx]
        simpa using h d (by simp) hdx
      · exact absurd ⟨d, hd, hdx⟩ hlater

/-! ## Little-endian values -/

theorem mem_cellsLE {n a : Nat} {v : Int} {c : Host.Cell} (h : c ∈ cellsLE a v n) : a ≤ c.1 ∧ c.1 < a + n := by
  induction n generalizing a v with
  | zero => simp [cellsLE] at h
  | succ n ih =>
    rcases List.mem_cons.mp h with rfl | h
    · exact ⟨Nat.le_refl a, Nat.lt_add_of_pos_right (Nat.succ_pos n)⟩
    · have := ih h
      omega

/-- Bytes equal one by one give equal values. -/
theorem readLE_congr {m m' : Memory} {n a : Nat} (h : ∀ k, k < n → read m (a + k) = read m' (a + k)) :
    readLE m a n = readLE m' a n := by
  induction n generalizing a with
  | zero => rfl
  | succ n ih =>
    simp only [readLE]
    rw [show read m a = read m' a from h 0 (Nat.succ_pos n), ih fun k hk => ?_]
    rw [show a + 1 + k = a + (k + 1) by omega]
    exact h (k + 1) (by omega)

/-- Membership in the cells of a two-dimensional loop. -/
theorem mem_gridCells {n w : Nat} {f : Nat → Nat → List Host.Cell} {c : Host.Cell} :
    c ∈ gridCells n w f ↔ ∃ r j, r < n ∧ j < w ∧ c ∈ f r j := by
  simp only [gridCells, List.mem_flatMap, List.mem_range]
  constructor
  · rintro ⟨r, hr, j, hj, hc⟩; exact ⟨r, j, hr, hj, hc⟩
  · rintro ⟨r, j, hr, hj, hc⟩; exact ⟨r, hr, j, hj, hc⟩

/-! ## Free bytes -/

theorem read_fill (free : Nat → Byte) (n : Nat) (m : Memory) (a x : Nat) :
    read (fill free m a n) x = if a ≤ x ∧ x < a + n then free x else read m x := by
  induction n generalizing m a with
  | zero => rw [fill, if_neg (by omega)]
  | succ n ih =>
    simp only [fill, ih, read_write]
    by_cases h : x = a
    · subst h
      rw [if_neg (by omega), if_pos rfl, if_pos (by omega)]
    · rw [if_neg h]
      by_cases h2 : a ≤ x ∧ x < a + (n + 1)
      · rw [if_pos h2, if_pos (by omega)]
      · rw [if_neg h2, if_neg (by omega)]

theorem wf_fill (free : Nat → Byte) (n : Nat) {m : Memory} (h : wf m = true) (a : Nat) : wf (fill free m a n) = true := by
  induction n generalizing m a with
  | zero => exact h
  | succ n ih => exact ih (wf_write h a (free a)) (a + 1)

theorem within_fill (free : Nat → Byte) (n : Nat) {size : Nat} {m : Memory} (h : within size m = true) (a : Nat)
    (ha : a + n ≤ size) : within size (fill free m a n) = true := by
  induction n generalizing m a with
  | zero => exact h
  | succ n ih => exact ih (within_write h (by omega) (free a)) (a + 1) (by omega)

theorem wf_allFree (free : Nat → Byte) (size : Nat) : wf (allFree free size) = true := wf_fill free size rfl 0

theorem within_allFree (free : Nat → Byte) (size : Nat) : within size (allFree free size) = true :=
  within_fill free size rfl 0 (by omega)

/-- After a power-on every byte inside the memory is free (20_memory.md R87). -/
theorem read_allFree (free : Nat → Byte) {size x : Nat} (h : x < size) : read (allFree free size) x = free x := by
  simp [allFree, read_fill, h]

end Sys2Proof.Machine.Memory
end

