-- ==== Sys2Proof/Laws/State.lean ====
section
/-! SUPPORT. One lemma per field for each named update of the state, so that no proof unfolds a record update. -/

namespace Sys2Proof.Machine.State


section complete

variable (s : State)

@[simp] theorem complete_cfg : (s.complete).cfg = s.cfg := rfl
@[simp] theorem complete_irqEn : (s.complete).irqEn = s.irqEn := rfl
@[simp] theorem complete_busy : (s.complete).busy = false := rfl
@[simp] theorem complete_done : (s.complete).done = true := rfl
@[simp] theorem complete_err : (s.complete).err = false := rfl
@[simp] theorem complete_errCode : (s.complete).errCode = 0#8 := rfl
@[simp] theorem complete_cmd : (s.complete).cmd = s.cmd := rfl
@[simp] theorem complete_src0 : (s.complete).src0 = s.src0 := rfl
@[simp] theorem complete_src1 : (s.complete).src1 = s.src1 := rfl
@[simp] theorem complete_src2 : (s.complete).src2 = s.src2 := rfl
@[simp] theorem complete_dst0 : (s.complete).dst0 = s.dst0 := rfl
@[simp] theorem complete_dst1 : (s.complete).dst1 = s.dst1 := rfl
@[simp] theorem complete_dst2 : (s.complete).dst2 = s.dst2 := rfl
@[simp] theorem complete_tbl : (s.complete).tbl = s.tbl := rfl
@[simp] theorem complete_sstride : (s.complete).sstride = s.sstride := rfl
@[simp] theorem complete_dstride : (s.complete).dstride = s.dstride := rfl
@[simp] theorem complete_width : (s.complete).width = s.width := rfl
@[simp] theorem complete_nrows : (s.complete).nrows = s.nrows := rfl
@[simp] theorem complete_mem : (s.complete).mem = s.mem := rfl
@[simp] theorem complete_agenda : (s.complete).agenda = s.agenda := rfl
@[simp] theorem complete_hostData : (s.complete).hostData = s.hostData := rfl
@[simp] theorem complete_draws : (s.complete).draws = s.draws := rfl

end complete


section fail

variable (s : State) (e : CmdError)

@[simp] theorem fail_cfg : (s.fail e).cfg = s.cfg := rfl
@[simp] theorem fail_irqEn : (s.fail e).irqEn = s.irqEn := rfl
@[simp] theorem fail_busy : (s.fail e).busy = false := rfl
@[simp] theorem fail_done : (s.fail e).done = true := rfl
@[simp] theorem fail_err : (s.fail e).err = true := rfl
@[simp] theorem fail_errCode : (s.fail e).errCode = e.code := rfl
@[simp] theorem fail_cmd : (s.fail e).cmd = s.cmd := rfl
@[simp] theorem fail_src0 : (s.fail e).src0 = s.src0 := rfl
@[simp] theorem fail_src1 : (s.fail e).src1 = s.src1 := rfl
@[simp] theorem fail_src2 : (s.fail e).src2 = s.src2 := rfl
@[simp] theorem fail_dst0 : (s.fail e).dst0 = s.dst0 := rfl
@[simp] theorem fail_dst1 : (s.fail e).dst1 = s.dst1 := rfl
@[simp] theorem fail_dst2 : (s.fail e).dst2 = s.dst2 := rfl
@[simp] theorem fail_tbl : (s.fail e).tbl = s.tbl := rfl
@[simp] theorem fail_sstride : (s.fail e).sstride = s.sstride := rfl
@[simp] theorem fail_dstride : (s.fail e).dstride = s.dstride := rfl
@[simp] theorem fail_width : (s.fail e).width = s.width := rfl
@[simp] theorem fail_nrows : (s.fail e).nrows = s.nrows := rfl
@[simp] theorem fail_mem : (s.fail e).mem = s.mem := rfl
@[simp] theorem fail_agenda : (s.fail e).agenda = s.agenda := rfl
@[simp] theorem fail_hostData : (s.fail e).hostData = s.hostData := rfl
@[simp] theorem fail_draws : (s.fail e).draws = s.draws := rfl

end fail


section begin

variable (s : State)

@[simp] theorem begin_cfg : (s.begin).cfg = s.cfg := rfl
@[simp] theorem begin_irqEn : (s.begin).irqEn = s.irqEn := rfl
@[simp] theorem begin_busy : (s.begin).busy = true := rfl
@[simp] theorem begin_done : (s.begin).done = false := rfl
@[simp] theorem begin_err : (s.begin).err = false := rfl
@[simp] theorem begin_errCode : (s.begin).errCode = 0#8 := rfl
@[simp] theorem begin_cmd : (s.begin).cmd = s.cmd := rfl
@[simp] theorem begin_src0 : (s.begin).src0 = s.src0 := rfl
@[simp] theorem begin_src1 : (s.begin).src1 = s.src1 := rfl
@[simp] theorem begin_src2 : (s.begin).src2 = s.src2 := rfl
@[simp] theorem begin_dst0 : (s.begin).dst0 = s.dst0 := rfl
@[simp] theorem begin_dst1 : (s.begin).dst1 = s.dst1 := rfl
@[simp] theorem begin_dst2 : (s.begin).dst2 = s.dst2 := rfl
@[simp] theorem begin_tbl : (s.begin).tbl = s.tbl := rfl
@[simp] theorem begin_sstride : (s.begin).sstride = s.sstride := rfl
@[simp] theorem begin_dstride : (s.begin).dstride = s.dstride := rfl
@[simp] theorem begin_width : (s.begin).width = s.width := rfl
@[simp] theorem begin_nrows : (s.begin).nrows = s.nrows := rfl
@[simp] theorem begin_mem : (s.begin).mem = s.mem := rfl
@[simp] theorem begin_agenda : (s.begin).agenda = s.agenda := rfl
@[simp] theorem begin_hostData : (s.begin).hostData = s.hostData := rfl
@[simp] theorem begin_draws : (s.begin).draws = s.draws := rfl

end begin


section clearStatus

variable (s : State) (v : Word)

@[simp] theorem clearStatus_cfg : (s.clearStatus v).cfg = s.cfg := rfl
@[simp] theorem clearStatus_irqEn : (s.clearStatus v).irqEn = s.irqEn := rfl
@[simp] theorem clearStatus_busy : (s.clearStatus v).busy = s.busy := rfl
@[simp] theorem clearStatus_done : (s.clearStatus v).done = (s.done && !v.getLsbD 1) := rfl
@[simp] theorem clearStatus_err : (s.clearStatus v).err = (s.err && !v.getLsbD 2) := rfl
@[simp] theorem clearStatus_errCode : (s.clearStatus v).errCode = s.errCode := rfl
@[simp] theorem clearStatus_cmd : (s.clearStatus v).cmd = s.cmd := rfl
@[simp] theorem clearStatus_src0 : (s.clearStatus v).src0 = s.src0 := rfl
@[simp] theorem clearStatus_src1 : (s.clearStatus v).src1 = s.src1 := rfl
@[simp] theorem clearStatus_src2 : (s.clearStatus v).src2 = s.src2 := rfl
@[simp] theorem clearStatus_dst0 : (s.clearStatus v).dst0 = s.dst0 := rfl
@[simp] theorem clearStatus_dst1 : (s.clearStatus v).dst1 = s.dst1 := rfl
@[simp] theorem clearStatus_dst2 : (s.clearStatus v).dst2 = s.dst2 := rfl
@[simp] theorem clearStatus_tbl : (s.clearStatus v).tbl = s.tbl := rfl
@[simp] theorem clearStatus_sstride : (s.clearStatus v).sstride = s.sstride := rfl
@[simp] theorem clearStatus_dstride : (s.clearStatus v).dstride = s.dstride := rfl
@[simp] theorem clearStatus_width : (s.clearStatus v).width = s.width := rfl
@[simp] theorem clearStatus_nrows : (s.clearStatus v).nrows = s.nrows := rfl
@[simp] theorem clearStatus_mem : (s.clearStatus v).mem = s.mem := rfl
@[simp] theorem clearStatus_agenda : (s.clearStatus v).agenda = s.agenda := rfl
@[simp] theorem clearStatus_hostData : (s.clearStatus v).hostData = s.hostData := rfl
@[simp] theorem clearStatus_draws : (s.clearStatus v).draws = s.draws := rfl

end clearStatus


section acknowledge

variable (s : State) (v : Word)

@[simp] theorem acknowledge_cfg : (s.acknowledge v).cfg = s.cfg := rfl
@[simp] theorem acknowledge_irqEn : (s.acknowledge v).irqEn = s.irqEn := rfl
@[simp] theorem acknowledge_busy : (s.acknowledge v).busy = s.busy := rfl
@[simp] theorem acknowledge_done : (s.acknowledge v).done = (s.done && !v.getLsbD 1) := rfl
@[simp] theorem acknowledge_err : (s.acknowledge v).err = (s.err && !v.getLsbD 2) := rfl
@[simp] theorem acknowledge_errCode : (s.acknowledge v).errCode = s.errCode := rfl
@[simp] theorem acknowledge_cmd : (s.acknowledge v).cmd = s.cmd := rfl
@[simp] theorem acknowledge_src0 : (s.acknowledge v).src0 = s.src0 := rfl
@[simp] theorem acknowledge_src1 : (s.acknowledge v).src1 = s.src1 := rfl
@[simp] theorem acknowledge_src2 : (s.acknowledge v).src2 = s.src2 := rfl
@[simp] theorem acknowledge_dst0 : (s.acknowledge v).dst0 = s.dst0 := rfl
@[simp] theorem acknowledge_dst1 : (s.acknowledge v).dst1 = s.dst1 := rfl
@[simp] theorem acknowledge_dst2 : (s.acknowledge v).dst2 = s.dst2 := rfl
@[simp] theorem acknowledge_tbl : (s.acknowledge v).tbl = s.tbl := rfl
@[simp] theorem acknowledge_sstride : (s.acknowledge v).sstride = s.sstride := rfl
@[simp] theorem acknowledge_dstride : (s.acknowledge v).dstride = s.dstride := rfl
@[simp] theorem acknowledge_width : (s.acknowledge v).width = s.width := rfl
@[simp] theorem acknowledge_nrows : (s.acknowledge v).nrows = s.nrows := rfl
@[simp] theorem acknowledge_mem : (s.acknowledge v).mem = s.mem := rfl
@[simp] theorem acknowledge_agenda : (s.acknowledge v).agenda = s.agenda := rfl
@[simp] theorem acknowledge_hostData : (s.acknowledge v).hostData = s.hostData := rfl
@[simp] theorem acknowledge_draws : (s.acknowledge v).draws = s.draws := rfl

end acknowledge


section resetRegisters

variable (s : State)

@[simp] theorem resetRegisters_cfg : (s.resetRegisters).cfg = s.cfg := rfl
@[simp] theorem resetRegisters_irqEn : (s.resetRegisters).irqEn = State.reset.irqEn := rfl
@[simp] theorem resetRegisters_busy : (s.resetRegisters).busy = State.reset.busy := rfl
@[simp] theorem resetRegisters_done : (s.resetRegisters).done = State.reset.done := rfl
@[simp] theorem resetRegisters_err : (s.resetRegisters).err = State.reset.err := rfl
@[simp] theorem resetRegisters_errCode : (s.resetRegisters).errCode = State.reset.errCode := rfl
@[simp] theorem resetRegisters_cmd : (s.resetRegisters).cmd = State.reset.cmd := rfl
@[simp] theorem resetRegisters_src0 : (s.resetRegisters).src0 = State.reset.src0 := rfl
@[simp] theorem resetRegisters_src1 : (s.resetRegisters).src1 = State.reset.src1 := rfl
@[simp] theorem resetRegisters_src2 : (s.resetRegisters).src2 = State.reset.src2 := rfl
@[simp] theorem resetRegisters_dst0 : (s.resetRegisters).dst0 = State.reset.dst0 := rfl
@[simp] theorem resetRegisters_dst1 : (s.resetRegisters).dst1 = State.reset.dst1 := rfl
@[simp] theorem resetRegisters_dst2 : (s.resetRegisters).dst2 = State.reset.dst2 := rfl
@[simp] theorem resetRegisters_tbl : (s.resetRegisters).tbl = State.reset.tbl := rfl
@[simp] theorem resetRegisters_sstride : (s.resetRegisters).sstride = State.reset.sstride := rfl
@[simp] theorem resetRegisters_dstride : (s.resetRegisters).dstride = State.reset.dstride := rfl
@[simp] theorem resetRegisters_width : (s.resetRegisters).width = State.reset.width := rfl
@[simp] theorem resetRegisters_nrows : (s.resetRegisters).nrows = State.reset.nrows := rfl
@[simp] theorem resetRegisters_mem : (s.resetRegisters).mem = s.mem := rfl
@[simp] theorem resetRegisters_agenda : (s.resetRegisters).agenda = s.agenda := rfl
@[simp] theorem resetRegisters_hostData : (s.resetRegisters).hostData = s.hostData := rfl
@[simp] theorem resetRegisters_draws : (s.resetRegisters).draws = s.draws := rfl

end resetRegisters


section powerOn

variable (s : State)

@[simp] theorem powerOn_cfg : (s.powerOn).cfg = s.cfg := rfl
@[simp] theorem powerOn_irqEn : (s.powerOn).irqEn = State.reset.irqEn := rfl
@[simp] theorem powerOn_busy : (s.powerOn).busy = State.reset.busy := rfl
@[simp] theorem powerOn_done : (s.powerOn).done = State.reset.done := rfl
@[simp] theorem powerOn_err : (s.powerOn).err = State.reset.err := rfl
@[simp] theorem powerOn_errCode : (s.powerOn).errCode = State.reset.errCode := rfl
@[simp] theorem powerOn_cmd : (s.powerOn).cmd = State.reset.cmd := rfl
@[simp] theorem powerOn_src0 : (s.powerOn).src0 = State.reset.src0 := rfl
@[simp] theorem powerOn_src1 : (s.powerOn).src1 = State.reset.src1 := rfl
@[simp] theorem powerOn_src2 : (s.powerOn).src2 = State.reset.src2 := rfl
@[simp] theorem powerOn_dst0 : (s.powerOn).dst0 = State.reset.dst0 := rfl
@[simp] theorem powerOn_dst1 : (s.powerOn).dst1 = State.reset.dst1 := rfl
@[simp] theorem powerOn_dst2 : (s.powerOn).dst2 = State.reset.dst2 := rfl
@[simp] theorem powerOn_tbl : (s.powerOn).tbl = State.reset.tbl := rfl
@[simp] theorem powerOn_sstride : (s.powerOn).sstride = State.reset.sstride := rfl
@[simp] theorem powerOn_dstride : (s.powerOn).dstride = State.reset.dstride := rfl
@[simp] theorem powerOn_width : (s.powerOn).width = State.reset.width := rfl
@[simp] theorem powerOn_nrows : (s.powerOn).nrows = State.reset.nrows := rfl
@[simp] theorem powerOn_mem : (s.powerOn).mem = Memory.allFree (Config.freeByte s.draws) s.cfg.dmemSize := rfl
@[simp] theorem powerOn_agenda : (s.powerOn).agenda = s.agenda := rfl
@[simp] theorem powerOn_hostData : (s.powerOn).hostData = s.hostData := rfl
@[simp] theorem powerOn_draws : (s.powerOn).draws = s.draws + 1 := rfl

end powerOn


section placeCommand

variable (s : State) (w : Word)

@[simp] theorem placeCommand_cfg : (s.placeCommand w).cfg = s.cfg := rfl
@[simp] theorem placeCommand_irqEn : (s.placeCommand w).irqEn = s.irqEn := rfl
@[simp] theorem placeCommand_busy : (s.placeCommand w).busy = true := rfl
@[simp] theorem placeCommand_done : (s.placeCommand w).done = false := rfl
@[simp] theorem placeCommand_err : (s.placeCommand w).err = false := rfl
@[simp] theorem placeCommand_errCode : (s.placeCommand w).errCode = 0#8 := rfl
@[simp] theorem placeCommand_cmd : (s.placeCommand w).cmd = w := rfl
@[simp] theorem placeCommand_src0 : (s.placeCommand w).src0 = s.src0 := rfl
@[simp] theorem placeCommand_src1 : (s.placeCommand w).src1 = s.src1 := rfl
@[simp] theorem placeCommand_src2 : (s.placeCommand w).src2 = s.src2 := rfl
@[simp] theorem placeCommand_dst0 : (s.placeCommand w).dst0 = s.dst0 := rfl
@[simp] theorem placeCommand_dst1 : (s.placeCommand w).dst1 = s.dst1 := rfl
@[simp] theorem placeCommand_dst2 : (s.placeCommand w).dst2 = s.dst2 := rfl
@[simp] theorem placeCommand_tbl : (s.placeCommand w).tbl = s.tbl := rfl
@[simp] theorem placeCommand_sstride : (s.placeCommand w).sstride = s.sstride := rfl
@[simp] theorem placeCommand_dstride : (s.placeCommand w).dstride = s.dstride := rfl
@[simp] theorem placeCommand_width : (s.placeCommand w).width = s.width := rfl
@[simp] theorem placeCommand_nrows : (s.placeCommand w).nrows = s.nrows := rfl
@[simp] theorem placeCommand_mem : (s.placeCommand w).mem = s.mem := rfl
@[simp] theorem placeCommand_agenda : (s.placeCommand w).agenda = (.engine :: s.agenda) := rfl
@[simp] theorem placeCommand_hostData : (s.placeCommand w).hostData = s.hostData := rfl
@[simp] theorem placeCommand_draws : (s.placeCommand w).draws = s.draws := rfl

end placeCommand


section withMem

variable (s : State) (m : Memory)

@[simp] theorem withMem_cfg : ({ s with mem := m }).cfg = s.cfg := rfl
@[simp] theorem withMem_irqEn : ({ s with mem := m }).irqEn = s.irqEn := rfl
@[simp] theorem withMem_busy : ({ s with mem := m }).busy = s.busy := rfl
@[simp] theorem withMem_done : ({ s with mem := m }).done = s.done := rfl
@[simp] theorem withMem_err : ({ s with mem := m }).err = s.err := rfl
@[simp] theorem withMem_errCode : ({ s with mem := m }).errCode = s.errCode := rfl
@[simp] theorem withMem_cmd : ({ s with mem := m }).cmd = s.cmd := rfl
@[simp] theorem withMem_src0 : ({ s with mem := m }).src0 = s.src0 := rfl
@[simp] theorem withMem_src1 : ({ s with mem := m }).src1 = s.src1 := rfl
@[simp] theorem withMem_src2 : ({ s with mem := m }).src2 = s.src2 := rfl
@[simp] theorem withMem_dst0 : ({ s with mem := m }).dst0 = s.dst0 := rfl
@[simp] theorem withMem_dst1 : ({ s with mem := m }).dst1 = s.dst1 := rfl
@[simp] theorem withMem_dst2 : ({ s with mem := m }).dst2 = s.dst2 := rfl
@[simp] theorem withMem_tbl : ({ s with mem := m }).tbl = s.tbl := rfl
@[simp] theorem withMem_sstride : ({ s with mem := m }).sstride = s.sstride := rfl
@[simp] theorem withMem_dstride : ({ s with mem := m }).dstride = s.dstride := rfl
@[simp] theorem withMem_width : ({ s with mem := m }).width = s.width := rfl
@[simp] theorem withMem_nrows : ({ s with mem := m }).nrows = s.nrows := rfl
@[simp] theorem withMem_mem : ({ s with mem := m }).mem = m := rfl
@[simp] theorem withMem_agenda : ({ s with mem := m }).agenda = s.agenda := rfl
@[simp] theorem withMem_hostData : ({ s with mem := m }).hostData = s.hostData := rfl
@[simp] theorem withMem_draws : ({ s with mem := m }).draws = s.draws := rfl

end withMem


section withAgenda

variable (s : State) (l : List Turn)

@[simp] theorem withAgenda_cfg : ({ s with agenda := l }).cfg = s.cfg := rfl
@[simp] theorem withAgenda_irqEn : ({ s with agenda := l }).irqEn = s.irqEn := rfl
@[simp] theorem withAgenda_busy : ({ s with agenda := l }).busy = s.busy := rfl
@[simp] theorem withAgenda_done : ({ s with agenda := l }).done = s.done := rfl
@[simp] theorem withAgenda_err : ({ s with agenda := l }).err = s.err := rfl
@[simp] theorem withAgenda_errCode : ({ s with agenda := l }).errCode = s.errCode := rfl
@[simp] theorem withAgenda_cmd : ({ s with agenda := l }).cmd = s.cmd := rfl
@[simp] theorem withAgenda_src0 : ({ s with agenda := l }).src0 = s.src0 := rfl
@[simp] theorem withAgenda_src1 : ({ s with agenda := l }).src1 = s.src1 := rfl
@[simp] theorem withAgenda_src2 : ({ s with agenda := l }).src2 = s.src2 := rfl
@[simp] theorem withAgenda_dst0 : ({ s with agenda := l }).dst0 = s.dst0 := rfl
@[simp] theorem withAgenda_dst1 : ({ s with agenda := l }).dst1 = s.dst1 := rfl
@[simp] theorem withAgenda_dst2 : ({ s with agenda := l }).dst2 = s.dst2 := rfl
@[simp] theorem withAgenda_tbl : ({ s with agenda := l }).tbl = s.tbl := rfl
@[simp] theorem withAgenda_sstride : ({ s with agenda := l }).sstride = s.sstride := rfl
@[simp] theorem withAgenda_dstride : ({ s with agenda := l }).dstride = s.dstride := rfl
@[simp] theorem withAgenda_width : ({ s with agenda := l }).width = s.width := rfl
@[simp] theorem withAgenda_nrows : ({ s with agenda := l }).nrows = s.nrows := rfl
@[simp] theorem withAgenda_mem : ({ s with agenda := l }).mem = s.mem := rfl
@[simp] theorem withAgenda_agenda : ({ s with agenda := l }).agenda = l := rfl
@[simp] theorem withAgenda_hostData : ({ s with agenda := l }).hostData = s.hostData := rfl
@[simp] theorem withAgenda_draws : ({ s with agenda := l }).draws = s.draws := rfl

end withAgenda


section withHostData

variable (s : State) (v : Word)

@[simp] theorem withHostData_cfg : ({ s with hostData := v }).cfg = s.cfg := rfl
@[simp] theorem withHostData_irqEn : ({ s with hostData := v }).irqEn = s.irqEn := rfl
@[simp] theorem withHostData_busy : ({ s with hostData := v }).busy = s.busy := rfl
@[simp] theorem withHostData_done : ({ s with hostData := v }).done = s.done := rfl
@[simp] theorem withHostData_err : ({ s with hostData := v }).err = s.err := rfl
@[simp] theorem withHostData_errCode : ({ s with hostData := v }).errCode = s.errCode := rfl
@[simp] theorem withHostData_cmd : ({ s with hostData := v }).cmd = s.cmd := rfl
@[simp] theorem withHostData_src0 : ({ s with hostData := v }).src0 = s.src0 := rfl
@[simp] theorem withHostData_src1 : ({ s with hostData := v }).src1 = s.src1 := rfl
@[simp] theorem withHostData_src2 : ({ s with hostData := v }).src2 = s.src2 := rfl
@[simp] theorem withHostData_dst0 : ({ s with hostData := v }).dst0 = s.dst0 := rfl
@[simp] theorem withHostData_dst1 : ({ s with hostData := v }).dst1 = s.dst1 := rfl
@[simp] theorem withHostData_dst2 : ({ s with hostData := v }).dst2 = s.dst2 := rfl
@[simp] theorem withHostData_tbl : ({ s with hostData := v }).tbl = s.tbl := rfl
@[simp] theorem withHostData_sstride : ({ s with hostData := v }).sstride = s.sstride := rfl
@[simp] theorem withHostData_dstride : ({ s with hostData := v }).dstride = s.dstride := rfl
@[simp] theorem withHostData_width : ({ s with hostData := v }).width = s.width := rfl
@[simp] theorem withHostData_nrows : ({ s with hostData := v }).nrows = s.nrows := rfl
@[simp] theorem withHostData_mem : ({ s with hostData := v }).mem = s.mem := rfl
@[simp] theorem withHostData_agenda : ({ s with hostData := v }).agenda = s.agenda := rfl
@[simp] theorem withHostData_hostData : ({ s with hostData := v }).hostData = v := rfl
@[simp] theorem withHostData_draws : ({ s with hostData := v }).draws = s.draws := rfl

end withHostData


/-- The memory of a completed command is the memory put in before it. -/
@[simp] theorem complete_withMem (s : State) (m : Memory) :
    { s with mem := m }.complete = { s.complete with mem := m } := rfl

end Sys2Proof.Machine.State
end

