-- ==== Sys2Proof/Laws/Ops.lean ====
section
/-! SUPPORT. What each shared operation can do, said once: the checks of a command, the command step, the host accesses and
one step of the machine. -/

namespace Sys2Proof.Machine

/-- A span is in range when its two ends are (20_memory.md R85). -/
theorem inRange_iff {size : Nat} {r : Region} : r.inRange size = true ↔ 0 ≤ r.lo ∧ r.hi ≤ (size : Int) := by
  simp [Region.inRange]

/-- Two spans meet when they have an address in common (20_memory.md R86). -/
theorem meets_iff {r t : Region} : r.meets t = true ↔ ∃ x : Int, r.lo ≤ x ∧ x < r.hi ∧ t.lo ≤ x ∧ x < t.hi := by
  simp only [Region.meets, decide_eq_true_eq]
  constructor
  · intro h; exact ⟨max r.lo t.lo, by omega, by omega, by omega, by omega⟩
  · rintro ⟨x, h1, h2, h3, h4⟩; omega

theorem selfOverlap_iff {r : Region} : r.selfOverlap = true ↔ 1 < r.nrows ∧ r.stride < r.rowbytes := by
  simp [Region.selfOverlap]

/-- Every byte of a region lies in its span. -/
theorem Region.Holds.spans {r : Region} {a : Nat} (h : r.Holds a) : r.spans a = true := by
  obtain ⟨row, k, hrow, hk, ha⟩ := h
  have hmul : ((row * r.stride : Nat) : Int) ≤ ((r.nrows : Int) - 1) * (r.stride : Int) := by
    rw [Int.natCast_mul]
    exact Int.mul_le_mul_of_nonneg_right (by omega) (by omega)
  have hnn : (0 : Int) ≤ ((row * r.stride : Nat) : Int) := by omega
  rw [Int.natCast_add] at ha
  refine decide_eq_true ⟨?_, ?_⟩
  · simp only [Region.lo]; omega
  · simp only [Region.hi]; omega

/-- What a plan that passes checks 3 to 6 satisfies (60_exceptions.md R403). -/
theorem check_none_iff {p : Plan} {size : Nat} :
    p.check size = none ↔ p.paramOk = true ∧ alignsOk p.aligns = true ∧ p.inRange size = true ∧ p.apart = true := by
  unfold Plan.check
  cases p.paramOk <;> cases alignsOk p.aligns <;> cases p.inRange size <;> cases p.apart <;> simp

/-- The code a plan fails with (60_exceptions.md R403). -/
theorem check_some_cases {p : Plan} {size : Nat} {e : CmdError} (h : p.check size = some e) :
    (e = .param ∧ p.paramOk = false) ∨
    (e = .align ∧ p.paramOk = true ∧ alignsOk p.aligns = false) ∨
    (e = .range ∧ p.paramOk = true ∧ alignsOk p.aligns = true ∧ p.inRange size = false) ∨
    (e = .overlap ∧ p.paramOk = true ∧ alignsOk p.aligns = true ∧ p.inRange size = true ∧ p.apart = false) := by
  unfold Plan.check at h
  cases h1 : p.paramOk <;> cases h2 : alignsOk p.aligns <;> cases h3 : p.inRange size <;> cases h4 : p.apart <;>
    simp_all

/-- The three things a command step can do (10_state.md R46, 60_exceptions.md R402). -/
theorem runCommand_cases (p : Plan) (dataOk : State → Bool) (out : State → List Host.Cell) (s : State) :
    (∃ e, p.check s.cfg.dmemSize = some e ∧ runCommand p dataOk out s = .next (s.fail e)) ∨
    (p.check s.cfg.dmemSize = none ∧ dataOk s = false ∧ runCommand p dataOk out s = .next (s.fail .data)) ∨
    (p.check s.cfg.dmemSize = none ∧ dataOk s = true ∧
      runCommand p dataOk out s = .next { s.complete with mem := Memory.writeCells s.mem (out s) }) := by
  unfold runCommand State.takeCmdError
  cases h : p.check s.cfg.dmemSize with
  | some e => exact .inl ⟨e, rfl, rfl⟩
  | none =>
    cases hd : dataOk s with
    | true => exact .inr (.inr ⟨rfl, rfl, by simp⟩)
    | false => exact .inr (.inl ⟨rfl, rfl, by simp⟩)

/-- A command that passes its checks completes with its output bytes written. -/
theorem runCommand_of_ok {p : Plan} {dataOk : State → Bool} (out : State → List Host.Cell) {s : State}
    (h : p.check s.cfg.dmemSize = none) (hd : dataOk s = true) :
    runCommand p dataOk out s = .next { s.complete with mem := Memory.writeCells s.mem (out s) } := by
  simp [runCommand, h, hd]

/-- A command that fails a check takes its error. -/
theorem runCommand_of_error {p : Plan} (dataOk : State → Bool) (out : State → List Host.Cell) {s : State} {e : CmdError}
    (h : p.check s.cfg.dmemSize = some e) : runCommand p dataOk out s = .next (s.fail e) := by
  simp [runCommand, h, State.takeCmdError]

/-! ## Free bytes of an abandoned command -/

theorem read_fillSpan (free : Nat → Byte) (size : Nat) (m : Memory) (r : Region) (x : Nat) :
    Memory.read (fillSpan free size m r) x = if r.spans x = true ∧ x < size then free x else Memory.read m x := by
  simp only [fillSpan, Memory.read_fill, Region.spans, decide_eq_true_eq]
  by_cases h : (r.lo ≤ (x : Int) ∧ (x : Int) < r.hi) ∧ x < size
  · rw [if_pos h, if_pos (by omega)]
  · rw [if_neg h, if_neg (by omega)]

/-- Inside the output spans every byte is the free one, outside every byte is as before (70_reset_and_hazards.md R451). -/
theorem read_fillSpans (free : Nat → Byte) (size : Nat) (rs : List Region) (m : Memory) (x : Nat) :
    Memory.read (fillSpans free size m rs) x =
      if (∃ r ∈ rs, r.spans x = true) ∧ x < size then free x else Memory.read m x := by
  induction rs generalizing m with
  | nil => simp [fillSpans]
  | cons r rs ih =>
    simp only [fillSpans, ih, read_fillSpan, List.mem_cons, exists_eq_or_imp]
    by_cases h1 : (∃ t ∈ rs, t.spans x = true) <;> by_cases h2 : r.spans x = true <;> by_cases h3 : x < size <;>
      simp [h1, h2, h3]

theorem wf_fillSpan (free : Nat → Byte) (size : Nat) {m : Memory} (h : Memory.wf m = true) (r : Region) :
    Memory.wf (fillSpan free size m r) = true := Memory.wf_fill free _ h _

theorem wf_fillSpans (free : Nat → Byte) (size : Nat) (rs : List Region) {m : Memory} (h : Memory.wf m = true) :
    Memory.wf (fillSpans free size m rs) = true := by
  induction rs generalizing m with
  | nil => exact h
  | cons r rs ih => exact ih (wf_fillSpan free size h r)

theorem within_fillSpan (free : Nat → Byte) (size : Nat) {m : Memory} (h : Memory.within size m = true) (r : Region) :
    Memory.within size (fillSpan free size m r) = true := by
  unfold fillSpan
  by_cases hlo : (max r.lo 0).toNat ≤ (min r.hi (size : Int)).toNat
  · exact Memory.within_fill free _ h _ (by omega)
  · simp only [show (min r.hi (size : Int)).toNat - (max r.lo 0).toNat = 0 by omega]
    exact h

theorem within_fillSpans (free : Nat → Byte) (size : Nat) (rs : List Region) {m : Memory}
    (h : Memory.within size m = true) : Memory.within size (fillSpans free size m rs) = true := by
  induction rs generalizing m with
  | nil => exact h
  | cons r rs ih => exact ih (within_fillSpan free size h r)

/-! ## Host accesses and steps -/

/-- What a soft reset does (70_reset_and_hazards.md R451). -/
theorem softReset_cases (s : State) :
    (s.pendingPlan = none ∧ s.softReset = s.resetRegisters) ∨
    (∃ p, s.pendingPlan = some p ∧ s.softReset =
      { s.resetRegisters with
        mem := fillSpans (Config.freeByte s.draws) s.cfg.dmemSize s.mem p.outputs, draws := s.draws + 1 }) := by
  unfold State.softReset
  cases h : s.pendingPlan with
  | none => exact .inl ⟨rfl, rfl⟩
  | some p => exact .inr ⟨p, rfl, rfl⟩

/-- What a register write can do (10_state.md R38, R39, R45). -/
theorem writeReg_cases (s : State) (offset : BitVec 8) (v : Word) :
    (offset = 0x08#8 ∧ s.writeReg offset v = s.writeCtrl v) ∨
    (offset = 0x0C#8 ∧ s.writeReg offset v = s.acknowledge v) ∨
    (offset ≠ 0x08#8 ∧ offset ≠ 0x0C#8 ∧ s.busy = true ∧ s.writeReg offset v = s) ∨
    (offset ≠ 0x08#8 ∧ offset ≠ 0x0C#8 ∧ s.busy = false ∧ s.writeReg offset v = s.writeOperand offset v) := by
  unfold State.writeReg
  by_cases h1 : offset = 0x08#8
  · exact .inl ⟨h1, by simp [h1]⟩
  · by_cases h2 : offset = 0x0C#8
    · exact .inr (.inl ⟨h2, by simp [h2]⟩)
    · cases h3 : s.busy
      · exact .inr (.inr (.inr ⟨h1, h2, rfl, by simp [h1, h2]⟩))
      · exact .inr (.inr (.inl ⟨h1, h2, rfl, by simp [h1, h2]⟩))

/-- What a write of `CTRL` can do (10_state.md R38). -/
theorem writeCtrl_cases (s : State) (v : Word) :
    (v.getLsbD 2 = true ∧ s.writeCtrl v = s.softReset) ∨
    (v.getLsbD 2 = false ∧ v.getLsbD 0 = true ∧ s.busy = false ∧
      s.writeCtrl v = { s with irqEn := v.getLsbD 1 }.begin) ∨
    (v.getLsbD 2 = false ∧ (v.getLsbD 0 = false ∨ s.busy = true) ∧ s.writeCtrl v = { s with irqEn := v.getLsbD 1 }) := by
  unfold State.writeCtrl
  cases h2 : v.getLsbD 2 <;> cases h0 : v.getLsbD 0 <;> cases hb : s.busy <;> simp

/-- What one turn of the engine can do (10_state.md R30, R46; 60_exceptions.md R401). -/
theorem engineTurn_cases (s : State) :
    (s.busy = false ∧ engineTurn s = .next s) ∨
    (s.busy = true ∧ ∃ i, decode s.cmd = .ok i ∧ engineTurn s = exec i s) ∨
    (s.busy = true ∧ ∃ e, decode s.cmd = .error e ∧ engineTurn s = .next (s.fail (decodeFailure e))) := by
  unfold engineTurn State.commandWord State.takeCmdError
  cases hb : s.busy with
  | false => exact .inl ⟨rfl, rfl⟩
  | true =>
    cases hd : decode s.cmd with
    | ok i => exact .inr (.inl ⟨rfl, i, rfl, rfl⟩)
    | error e => exact .inr (.inr ⟨rfl, e, rfl, rfl⟩)

/-- What a host access that goes through can do (10_state.md R33 to R45, 20_memory.md R80). -/
theorem hostAccess_next_cases {s t : State} {a : HostAccess} (h : s.hostAccess a = .next t) :
    (∃ offset w, a = .regRead offset w ∧ t = { s with hostData := s.readReg offset }) ∨
    (∃ offset w v, a = .regWrite offset w v ∧ t = s.writeReg offset v) ∨
    (∃ addr w, a = .memRead addr w ∧ s.accessAllowed a = true ∧ s.accessHazard addr.toNat w = false ∧
      t = { s with hostData := BitVec.ofNat 32 (Memory.readLE s.mem addr.toNat w.bytes) }) ∨
    (∃ addr w v, a = .memWrite addr w v ∧ s.accessAllowed a = true ∧ s.accessHazard addr.toNat w = false ∧
      t = { s with mem := Memory.writeCells s.mem (Memory.cellsLE addr.toNat (v.toNat : Int) w.bytes) }) := by
  cases a with
  | regRead offset w =>
    simp only [State.hostAccess] at h
    split at h
    · cases h; exact .inl ⟨offset, w, rfl, rfl⟩
    · cases h
  | regWrite offset w v =>
    simp only [State.hostAccess] at h
    split at h
    · cases h; exact .inr (.inl ⟨offset, w, v, rfl, rfl⟩)
    · cases h
  | memRead addr w =>
    simp only [State.hostAccess] at h
    split at h
    · split at h
      · cases h
      · cases h; exact .inr (.inr (.inl ⟨addr, w, rfl, ‹_›, by simp_all, rfl⟩))
    · cases h
  | memWrite addr w v =>
    simp only [State.hostAccess] at h
    split at h
    · split at h
      · cases h
      · cases h; exact .inr (.inr (.inr ⟨addr, w, v, rfl, ‹_›, by simp_all, rfl⟩))
    · cases h

/-- The next turn is the head of the agenda, or the engine's where the agenda is empty (10_state.md R30). -/
theorem nextTurn_cases (s : State) :
    (s.agenda = [] ∧ s.nextTurn = (.engine, s)) ∨
    (∃ t rest, s.agenda = t :: rest ∧ s.nextTurn = (t, { s with agenda := rest })) := by
  unfold State.nextTurn
  cases h : s.agenda with
  | nil => exact .inl ⟨rfl, rfl⟩
  | cons t rest => exact .inr ⟨t, rest, rfl, rfl⟩

end Sys2Proof.Machine
end

