-- ==== Sys2Proof/Laws/Exec.lean ====
section
/-! SUPPORT. Every command step has one form: the plan of 30_encoding.md R113, a data check and the output bytes. -/

namespace Sys2Proof.Machine

/-- The data check of a command (60_exceptions.md R403, check 7). -/
def dataCheck : Instr → State → Bool
  | .qtblPrep, s => divisorsOk s
  | _, _ => true

/-- The output bytes of a command. -/
def outputCells : Instr → State → List Host.Cell
  | .nop, _ => []
  | .fdctIslow, s => fdctIntCells s (fdctIslowBlock (fdctInput s))
  | .fdctIfast, s => fdctIntCells s (fdctIfastBlock (fdctInput s))
  | .fdctFloat, s => fdctFloatCells s (fdctFloatBlock (fdctInput s))
  | .quantInt, s => quantIntCells s
  | .quantFloat, s => quantFloatCells s
  | .qtblPrep, s => qtblPrepCells s
  | .idctIslow, s => idctIslowCells s
  | .idctIfast, s => idctIfastCells s
  | .idctFloat, s => idctFloatCells s
  | .idct2x2, s => idct2x2Cells s
  | .idct4x4, s => idct4x4Cells s
  | .idct6x6, s => idct6x6Cells s
  | .idct12x12, s => idct12x12Cells s
  | .rgbYcc l, s => rgbYccCells l s
  | .rgbGray l, s => rgbGrayCells l s
  | .yccRgb l, s => yccRgbCells l s
  | .yccRgb565, s => yccRgb565Cells s
  | .downH2v1, s => downH2v1Cells s
  | .downH2v2, s => downH2v2Cells s
  | .upH2v1Box, s => upH2v1BoxCells s
  | .upH2v2Box, s => upH2v2BoxCells s
  | .upH2v1Fancy, s => upH2v1FancyCells s
  | .upH1v2Fancy, s => upH1v2FancyCells s
  | .upH2v2Fancy, s => upH2v2FancyCells s
  | .mergedH2v1 l, s => mergedH2v1Cells l s
  | .mergedH2v2 l, s => mergedH2v2Cells l s

/-- The one form of every command step (10_state.md R46). -/
theorem exec_eq_runCommand (i : Instr) (s : State) : exec i s = runCommand (plan s i) (dataCheck i) (outputCells i) s := by
  cases i <;> rfl

end Sys2Proof.Machine
end

