-- ==== Sys2Proof/Laws/Grid.lean ====
section
/-! SUPPORT. What is read after the cells of a two-dimensional loop are written: each output byte, and everything else. -/

namespace Sys2Proof.Machine.Memory

/-- Rows that do not overlap have no byte in common: the row and the column of a byte are determined by its offset. -/
theorem row_column_unique {n w stride r j r' j' : Nat} (hs : n ≤ 1 ∨ w ≤ stride) (hr : r < n) (hr' : r' < n) (hj : j < w)
    (hj' : j' < w) (h : r * stride + j = r' * stride + j') : r = r' ∧ j = j' := by
  rcases hs with hn | hs
  · have h1 : r = 0 := by omega
    have h2 : r' = 0 := by omega
    subst h1 h2; exact ⟨rfl, by simpa using h⟩
  · have hrr : r = r' := by
      have e1 : (r * stride + j) / stride = r := by
        rw [Nat.mul_comm, Nat.mul_add_div (by omega), Nat.div_eq_of_lt (by omega)]; rfl
      have e2 : (r' * stride + j') / stride = r' := by
        rw [Nat.mul_comm, Nat.mul_add_div (by omega), Nat.div_eq_of_lt (by omega)]; rfl
      rw [← e1, ← e2, h]
    subst hrr; exact ⟨rfl, by omega⟩

/-- A cell of the loop is read back where the loop writes each address with one value. -/
theorem read_gridCells {n w : Nat} {f : Nat → Nat → List Host.Cell} (m : Memory) {r j : Nat} {c : Host.Cell} (hr : r < n)
    (hj : j < w) (hc : c ∈ f r j)
    (hu : ∀ r' j' c', r' < n → j' < w → c' ∈ f r' j' → c'.1 = c.1 → c'.2 = c.2) :
    read (writeCells m (gridCells n w f)) c.1 = c.2 := by
  refine read_writeCells_mem _ m ⟨c, mem_gridCells.mpr ⟨r, j, hr, hj, hc⟩, rfl⟩ fun d hd hdx => ?_
  obtain ⟨r', j', hr', hj', hd⟩ := mem_gridCells.mp hd
  exact hu r' j' d hr' hj' hd hdx

/-- A byte that no turn of the loop writes is left alone. -/
theorem read_gridCells_other {n w : Nat} {f : Nat → Nat → List Host.Cell} (m : Memory) {x : Nat}
    (h : ∀ r j c, r < n → j < w → c ∈ f r j → c.1 ≠ x) : read (writeCells m (gridCells n w f)) x = read m x := by
  refine read_writeCells_other _ m fun c hc => ?_
  obtain ⟨r, j, hr, hj, hc⟩ := mem_gridCells.mp hc
  exact h r j c hr hj hc

/-- The sample of row `r`, column `j` is read back. -/
theorem read_sampleCells (m : Memory) {base stride n w : Nat} (value : Nat → Nat → Int) (hs : n ≤ 1 ∨ w ≤ stride) {r j : Nat}
    (hr : r < n) (hj : j < w) :
    read (writeCells m (sampleCells base stride n w value)) (base + r * stride + j) = toByte (value r j) := by
  refine read_gridCells (c := (base + r * stride + j, toByte (value r j))) m hr hj (by simp) fun r' j' c' hr' hj' hc' he => ?_
  simp only [List.mem_singleton] at hc'
  subst hc'
  obtain ⟨rfl, rfl⟩ := row_column_unique hs hr' hr hj' hj (by simpa [Nat.add_assoc] using he)
  rfl

/-- A byte outside the sample rows is left alone. -/
theorem read_sampleCells_other (m : Memory) {base stride n w : Nat} (value : Nat → Nat → Int) {x : Nat}
    (h : ∀ r j, r < n → j < w → x ≠ base + r * stride + j) :
    read (writeCells m (sampleCells base stride n w value)) x = read m x := by
  refine read_gridCells_other m fun r j c hr hj hc => ?_
  simp only [List.mem_singleton] at hc
  subst hc
  exact Ne.symm (h r j hr hj)

/-- Two loops with the same cells at every turn are the same loop. -/
theorem gridCells_congr {n w : Nat} {f g : Nat → Nat → List Host.Cell} (h : ∀ r j, r < n → j < w → f r j = g r j) :
    gridCells n w f = gridCells n w g := by
  simp only [gridCells, List.flatMap_def]
  congr 1
  refine List.map_congr_left fun r hr => ?_
  congr 1
  exact List.map_congr_left fun j hj => h r j (List.mem_range.mp hr) (List.mem_range.mp hj)

end Sys2Proof.Machine.Memory
end

