-- ==== Sys2Proof/Laws/Cells.lean ====
section
/-! SUPPORT. Where a command writes: every output byte of every command lies in an output region of its plan, so inside the memory
where the range check passed. -/

namespace Sys2Proof.Machine

open Memory

/-- A byte of row `row` of a region at a register's address. -/
theorem rowRegion_holds {base : Word} {n stride w a : Nat} (row k : Nat) (hr : row < n) (hk : k < w)
    (ha : a = base.toNat + row * stride + k) : (rowRegion base n stride w).Holds a :=
  ⟨row, k, hr, hk, by simp only [rowRegion]; omega⟩

/-- A byte of a region of one row at a register's address. -/
theorem flatRegion_holds {base : Word} {bytes a : Nat} (k : Nat) (hk : k < bytes) (ha : a = base.toNat + k) :
    (flatRegion base bytes).Holds a :=
  ⟨0, k, Nat.one_pos, hk, by simp only [flatRegion]; omega⟩

theorem sampleCells_holds {base : Word} {n stride w : Nat} {value : Nat → Nat → Int} {c : Host.Cell}
    (h : c ∈ sampleCells base.toNat stride n w value) : (rowRegion base n stride w).Holds c.1 := by
  obtain ⟨r, j, hr, hj, hc⟩ := mem_gridCells.mp h
  rw [List.mem_singleton.mp hc]
  exact rowRegion_holds r j hr hj rfl

theorem fdctIntCells_holds {s : State} {b : V8 (V8 Int)} {c : Host.Cell} (h : c ∈ fdctIntCells s b) :
    (flatRegion s.dst0 128).Holds c.1 := by
  obtain ⟨u, v, hu, hv, hc⟩ := mem_gridCells.mp h
  have := mem_cellsLE hc
  exact flatRegion_holds (c.1 - s.dst0.toNat) (by omega) (by omega)

theorem fdctFloatCells_holds {s : State} {b : V8 (V8 F32)} {c : Host.Cell} (h : c ∈ fdctFloatCells s b) :
    (flatRegion s.dst0 256).Holds c.1 := by
  obtain ⟨u, v, hu, hv, hc⟩ := mem_gridCells.mp h
  have := mem_cellsLE hc
  exact flatRegion_holds (c.1 - s.dst0.toNat) (by omega) (by omega)

theorem quantIntCells_holds {s : State} {c : Host.Cell} (h : c ∈ quantIntCells s) : (flatRegion s.dst0 128).Holds c.1 := by
  obtain ⟨i, _, hi, _, hc⟩ := mem_gridCells.mp h
  have := mem_cellsLE hc
  exact flatRegion_holds (c.1 - s.dst0.toNat) (by omega) (by omega)

theorem quantFloatCells_holds {s : State} {c : Host.Cell} (h : c ∈ quantFloatCells s) :
    (flatRegion s.dst0 128).Holds c.1 := by
  obtain ⟨i, _, hi, _, hc⟩ := mem_gridCells.mp h
  have := mem_cellsLE hc
  exact flatRegion_holds (c.1 - s.dst0.toNat) (by omega) (by omega)

theorem qtblPrepCells_holds {s : State} {c : Host.Cell} (h : c ∈ qtblPrepCells s) : (flatRegion s.dst0 384).Holds c.1 := by
  obtain ⟨i, _, hi, _, hc⟩ := mem_gridCells.mp h
  rcases List.mem_append.mp hc with hc | hc
  · rcases List.mem_append.mp hc with hc | hc
    · have := mem_cellsLE hc
      exact flatRegion_holds (c.1 - s.dst0.toNat) (by omega) (by omega)
    · have := mem_cellsLE hc
      exact flatRegion_holds (c.1 - s.dst0.toNat) (by omega) (by omega)
  · have := mem_cellsLE hc
    exact flatRegion_holds (c.1 - s.dst0.toNat) (by omega) (by omega)

/-- A byte of `PUTPIX` lies in its pixel (44_color.md R259). -/
theorem putPixel_offset {filler : Byte} {l : Layout} {a : Nat} {p : Triple} {c : Host.Cell} (h : c ∈ putPixel filler l a p) :
    ∃ k, k < pixelBytes l ∧ c.1 = a + k := by
  rcases List.mem_append.mp h with h | h
  · simp only [List.mem_cons, List.not_mem_nil, or_false] at h
    rcases h with rfl | rfl | rfl
    · exact ⟨redOffset l, by cases l <;> decide, rfl⟩
    · exact ⟨greenOffset l, by cases l <;> decide, rfl⟩
    · exact ⟨blueOffset l, by cases l <;> decide, rfl⟩
  · cases l <;> simp only [fillerOffset, List.mem_singleton, List.not_mem_nil] at h <;> subst h
    · exact ⟨3, by decide, rfl⟩
    · exact ⟨3, by decide, rfl⟩
    · exact ⟨0, by decide, rfl⟩
    · exact ⟨0, by decide, rfl⟩

/-- Byte `k` of pixel `j` lies in a row of `w` pixels. -/
theorem pixel_in_row {j w p k : Nat} (hj : j < w) (hk : k < p) : j * p + k < w * p := by
  have : (j + 1) * p ≤ w * p := Nat.mul_le_mul_right p hj
  rw [Nat.add_mul] at this
  omega

theorem pixelRows_holds {s : State} {l : Layout} {n w : Nat} {p : Nat → Nat → Triple} {c : Host.Cell}
    (h : c ∈ gridCells n w fun r j => putPixel s.cfg.filler l (pixelAddress s l r j) (p r j)) :
    (rowRegion s.dst0 n s.ds0 (w * pixelBytes l)).Holds c.1 := by
  obtain ⟨r, j, hr, hj, hc⟩ := mem_gridCells.mp h
  obtain ⟨k, hk, hc⟩ := putPixel_offset hc
  exact rowRegion_holds r (j * pixelBytes l + k) hr (pixel_in_row hj hk) (by rw [hc, pixelAddress]; omega)

/-- Every output byte of a command lies in an output region of its plan (30_encoding.md R113). -/
theorem outputCells_hold (i : Instr) (s : State) {c : Host.Cell} (h : c ∈ outputCells i s) :
    ∃ r ∈ (plan s i).outputs, r.Holds c.1 := by
  cases i with
  | nop => simp [outputCells] at h
  | fdctIslow => exact ⟨_, List.mem_singleton.mpr rfl, fdctIntCells_holds h⟩
  | fdctIfast => exact ⟨_, List.mem_singleton.mpr rfl, fdctIntCells_holds h⟩
  | fdctFloat => exact ⟨_, List.mem_singleton.mpr rfl, fdctFloatCells_holds h⟩
  | quantInt => exact ⟨_, List.mem_singleton.mpr rfl, quantIntCells_holds h⟩
  | quantFloat => exact ⟨_, List.mem_singleton.mpr rfl, quantFloatCells_holds h⟩
  | qtblPrep => exact ⟨_, List.mem_singleton.mpr rfl, qtblPrepCells_holds h⟩
  | idctIslow =>
    unfold outputCells idctIslowCells idctCells at h
    exact ⟨_, List.mem_singleton.mpr rfl, sampleCells_holds h⟩
  | idctIfast =>
    unfold outputCells idctIfastCells idctCells at h
    exact ⟨_, List.mem_singleton.mpr rfl, sampleCells_holds h⟩
  | idctFloat =>
    unfold outputCells idctFloatCells idctCells at h
    exact ⟨_, List.mem_singleton.mpr rfl, sampleCells_holds h⟩
  | idct2x2 =>
    unfold outputCells idct2x2Cells idctCells at h
    exact ⟨_, List.mem_singleton.mpr rfl, sampleCells_holds h⟩
  | idct4x4 =>
    unfold outputCells idct4x4Cells idctCells at h
    exact ⟨_, List.mem_singleton.mpr rfl, sampleCells_holds h⟩
  | idct6x6 =>
    unfold outputCells idct6x6Cells idctCells at h
    exact ⟨_, List.mem_singleton.mpr rfl, sampleCells_holds h⟩
  | idct12x12 =>
    unfold outputCells idct12x12Cells idctCells at h
    exact ⟨_, List.mem_singleton.mpr rfl, sampleCells_holds h⟩
  | rgbYcc l =>
    obtain ⟨r, j, hr, hj, hc⟩ := mem_gridCells.mp h
    simp only [List.mem_cons, List.not_mem_nil, or_false] at hc
    rcases hc with rfl | rfl | rfl
    · exact ⟨_, List.mem_cons_self, rowRegion_holds r j hr hj rfl⟩
    · exact ⟨_, List.mem_cons_of_mem _ List.mem_cons_self, rowRegion_holds r j hr hj rfl⟩
    · exact ⟨_, List.mem_cons_of_mem _ (List.mem_cons_of_mem _ List.mem_cons_self), rowRegion_holds r j hr hj rfl⟩
  | rgbGray l => exact ⟨_, List.mem_singleton.mpr rfl, sampleCells_holds h⟩
  | yccRgb l => exact ⟨_, List.mem_singleton.mpr rfl, pixelRows_holds h⟩
  | yccRgb565 =>
    obtain ⟨r, j, hr, hj, hc⟩ := mem_gridCells.mp h
    have := mem_cellsLE hc
    exact ⟨_, List.mem_singleton.mpr rfl,
      rowRegion_holds r (c.1 - (s.dst0.toNat + r * s.ds0)) hr (by omega) (by omega)⟩
  | downH2v1 => exact ⟨_, List.mem_singleton.mpr rfl, sampleCells_holds h⟩
  | downH2v2 => exact ⟨_, List.mem_singleton.mpr rfl, sampleCells_holds h⟩
  | upH2v1Box =>
    exact ⟨_, List.mem_singleton.mpr rfl, by simpa only [Nat.one_mul] using sampleCells_holds h⟩
  | upH2v2Box => exact ⟨_, List.mem_singleton.mpr rfl, sampleCells_holds h⟩
  | upH2v1Fancy => exact ⟨_, List.mem_singleton.mpr rfl, sampleCells_holds h⟩
  | upH1v2Fancy => exact ⟨_, List.mem_singleton.mpr rfl, sampleCells_holds h⟩
  | upH2v2Fancy => exact ⟨_, List.mem_singleton.mpr rfl, sampleCells_holds h⟩
  | mergedH2v1 l =>
    exact ⟨_, List.mem_singleton.mpr rfl, by simpa only [Nat.one_mul] using pixelRows_holds h⟩
  | mergedH2v2 l => exact ⟨_, List.mem_singleton.mpr rfl, pixelRows_holds h⟩

/-- Every output byte of a command that passed its checks lies inside the memory (20_memory.md R85). -/
theorem outputCells_within (i : Instr) (s : State) (h : (plan s i).check s.cfg.dmemSize = none) {c : Host.Cell}
    (hc : c ∈ outputCells i s) : c.1 < s.cfg.dmemSize := by
  obtain ⟨r, hr, hh⟩ := outputCells_hold i s hc
  have hrange := (check_none_iff.mp h).2.2.1
  simp only [Plan.inRange, Bool.and_eq_true, List.all_eq_true] at hrange
  have h1 := inRange_iff.mp (hrange.2 r hr)
  have h2 := hh.spans
  simp only [Region.spans, decide_eq_true_iff] at h2
  omega

end Sys2Proof.Machine
end

