-- ==== Sys2Proof/Laws/PerInstr.lean ====
section
/-! SUPPORT. A law proved for each command: the encoder puts the operation code and the layout where 30_encoding.md R111 and R112
put them, and nothing in the reserved bits. -/

namespace Sys2Proof.Laws.EncodeFields

/-- The fields of the word of a command (30_encoding.md R111, R118). -/
def Statement (i : Instr) : Prop :=
  opField (encode i) = i.op ∧ reservedField (encode i) = 0 ∧
    layoutField (encode i) = (match i.layout? with | some l => l.code | none => 0)

theorem nop : Statement .nop := by unfold Statement; decide

theorem fdctIslow : Statement .fdctIslow := by unfold Statement; decide

theorem fdctIfast : Statement .fdctIfast := by unfold Statement; decide

theorem fdctFloat : Statement .fdctFloat := by unfold Statement; decide

theorem quantInt : Statement .quantInt := by unfold Statement; decide

theorem quantFloat : Statement .quantFloat := by unfold Statement; decide

theorem qtblPrep : Statement .qtblPrep := by unfold Statement; decide

theorem idctIslow : Statement .idctIslow := by unfold Statement; decide

theorem idctIfast : Statement .idctIfast := by unfold Statement; decide

theorem idctFloat : Statement .idctFloat := by unfold Statement; decide

theorem idct2x2 : Statement .idct2x2 := by unfold Statement; decide

theorem idct4x4 : Statement .idct4x4 := by unfold Statement; decide

theorem idct6x6 : Statement .idct6x6 := by unfold Statement; decide

theorem idct12x12 : Statement .idct12x12 := by unfold Statement; decide

theorem yccRgb565 : Statement .yccRgb565 := by unfold Statement; decide

theorem downH2v1 : Statement .downH2v1 := by unfold Statement; decide

theorem downH2v2 : Statement .downH2v2 := by unfold Statement; decide

theorem upH2v1Box : Statement .upH2v1Box := by unfold Statement; decide

theorem upH2v2Box : Statement .upH2v2Box := by unfold Statement; decide

theorem upH2v1Fancy : Statement .upH2v1Fancy := by unfold Statement; decide

theorem upH1v2Fancy : Statement .upH1v2Fancy := by unfold Statement; decide

theorem upH2v2Fancy : Statement .upH2v2Fancy := by unfold Statement; decide

theorem rgbYcc (l : Layout) : Statement (.rgbYcc l) := by unfold Statement; cases l <;> decide

theorem rgbGray (l : Layout) : Statement (.rgbGray l) := by unfold Statement; cases l <;> decide

theorem yccRgb (l : Layout) : Statement (.yccRgb l) := by unfold Statement; cases l <;> decide

theorem mergedH2v1 (l : Layout) : Statement (.mergedH2v1 l) := by unfold Statement; cases l <;> decide

theorem mergedH2v2 (l : Layout) : Statement (.mergedH2v2 l) := by unfold Statement; cases l <;> decide

end Sys2Proof.Laws.EncodeFields
end

