-- ==== Sys2Proof/Laws/Reads.lean ====
section
/-! SUPPORT. What a command reads: its output bytes and its data check depend on its registers and on the bytes of its input
regions alone (00_scope.md R15). -/

namespace Sys2Proof.Machine

open Memory

/-- The memories agree on every byte of the listed regions. -/
def agreeOn (rs : List Region) (m m' : Memory) : Prop := ∀ r ∈ rs, ∀ a : Nat, r.Holds a → read m a = read m' a

theorem agreeOn_cons {r : Region} {rs : List Region} {m m' : Memory} :
    agreeOn (r :: rs) m m' ↔ (∀ a : Nat, r.Holds a → read m a = read m' a) ∧ agreeOn rs m m' := by
  simp [agreeOn]

theorem s8_congr {m m' : Memory} {a : Nat} (h : read m a = read m' a) : s8 m a = s8 m' a := by simp only [s8, h]

/-- A value of `n` bytes inside a block is the same where the bytes of the block are. -/
theorem readLE_flat {base : Word} {bytes : Nat} {m m' : Memory}
    (h : ∀ a : Nat, (flatRegion base bytes).Holds a → read m a = read m' a) {n off : Nat} (hn : off + n ≤ bytes) :
    readLE m (base.toNat + off) n = readLE m' (base.toNat + off) n :=
  readLE_congr fun k hk => h _ (flatRegion_holds (off + k) (by omega) (by omega))

theorem i16_flat {base : Word} {bytes : Nat} {m m' : Memory}
    (h : ∀ a : Nat, (flatRegion base bytes).Holds a → read m a = read m' a) {off : Nat} (hn : off + 2 ≤ bytes) :
    i16 m (base.toNat + off) = i16 m' (base.toNat + off) := by simp only [i16, readLE_flat h hn]

theorem u16_flat {base : Word} {bytes : Nat} {m m' : Memory}
    (h : ∀ a : Nat, (flatRegion base bytes).Holds a → read m a = read m' a) {off : Nat} (hn : off + 2 ≤ bytes) :
    u16 m (base.toNat + off) = u16 m' (base.toNat + off) := by simp only [u16, readLE_flat h hn]

theorem f32_flat {base : Word} {bytes : Nat} {m m' : Memory}
    (h : ∀ a : Nat, (flatRegion base bytes).Holds a → read m a = read m' a) {off : Nat} (hn : off + 4 ≤ bytes) :
    f32 m (base.toNat + off) = f32 m' (base.toNat + off) := by simp only [f32, readLE_flat h hn]

/-- A sample inside rows is the same where the bytes of the rows are. -/
theorem s8_rows {base : Word} {n stride w : Nat} {m m' : Memory}
    (h : ∀ a : Nat, (rowRegion base n stride w).Holds a → read m a = read m' a) {r j : Nat} (hr : r < n) (hj : j < w) :
    s8 m (base.toNat + r * stride + j) = s8 m' (base.toNat + r * stride + j) :=
  s8_congr (h _ (rowRegion_holds r j hr hj rfl))

/-- Two blocks with the same elements are the same block. -/
theorem block8_congr {α : Type} {f g : Nat → Nat → α} (h : ∀ y x, y < 8 → x < 8 → f y x = g y x) : block8 f = block8 g := by
  have hrow : ∀ y, y < 8 → (tabulate8 fun x => f y x) = tabulate8 fun x => g y x := fun y hy => by
    simp only [tabulate8, h y _ hy (by decide : 0 < 8), h y _ hy (by decide : 1 < 8), h y _ hy (by decide : 2 < 8),
      h y _ hy (by decide : 3 < 8), h y _ hy (by decide : 4 < 8), h y _ hy (by decide : 5 < 8),
      h y _ hy (by decide : 6 < 8), h y _ hy (by decide : 7 < 8)]
  unfold block8
  simp only [tabulate8] at hrow ⊢
  rw [hrow 0 (by decide), hrow 1 (by decide), hrow 2 (by decide), hrow 3 (by decide), hrow 4 (by decide), hrow 5 (by decide),
    hrow 6 (by decide), hrow 7 (by decide)]

/-- The same state with another data memory. -/
def State.withMem (s : State) (m : Memory) : State := { s with mem := m }

theorem fdctInput_congr {s : State} {m : Memory}
    (h : ∀ a : Nat, (rowRegion s.src0 8 s.ss0 8).Holds a → read s.mem a = read m a) :
    fdctInput s = fdctInput (s.withMem m) :=
  block8_congr fun y x hy hx => by
    show s8 s.mem (s.src0.toNat + y * s.ss0 + x) - 128 = s8 m (s.src0.toNat + y * s.ss0 + x) - 128
    rw [s8_rows h hy hx]

theorem dequantInt_congr {s : State} {m : Memory}
    (h1 : ∀ a : Nat, (flatRegion s.src0 128).Holds a → read s.mem a = read m a)
    (h2 : ∀ a : Nat, (flatRegion s.tbl 128).Holds a → read s.mem a = read m a) :
    dequantInt s = dequantInt (s.withMem m) :=
  block8_congr fun u v hu hv => by
    show i16 s.mem (s.src0.toNat + 2 * (8 * u + v)) * i16 s.mem (s.tbl.toNat + 2 * (8 * u + v)) =
      i16 m (s.src0.toNat + 2 * (8 * u + v)) * i16 m (s.tbl.toNat + 2 * (8 * u + v))
    rw [i16_flat h1 (by omega), i16_flat h2 (by omega)]

theorem dequantFloat_congr {s : State} {m : Memory}
    (h1 : ∀ a : Nat, (flatRegion s.src0 128).Holds a → read s.mem a = read m a)
    (h2 : ∀ a : Nat, (flatRegion s.tbl 256).Holds a → read s.mem a = read m a) :
    dequantFloat s = dequantFloat (s.withMem m) :=
  block8_congr fun u v hu hv => by
    show fmul (floatOfInt (i16 s.mem (s.src0.toNat + 2 * (8 * u + v)))) (f32 s.mem (s.tbl.toNat + 4 * (8 * u + v))) =
      fmul (floatOfInt (i16 m (s.src0.toNat + 2 * (8 * u + v)))) (f32 m (s.tbl.toNat + 4 * (8 * u + v)))
    rw [i16_flat h1 (by omega), f32_flat h2 (by omega)]

theorem readEntry_congr {s : State} {m : Memory}
    (h : ∀ a : Nat, (flatRegion s.tbl 384).Holds a → read s.mem a = read m a) {i : Nat} (hi : i < 64) :
    readEntry s.mem s.tbl.toNat i = readEntry m s.tbl.toNat i := by
  simp only [readEntry, Nat.add_assoc, u16_flat h (show 2 * i + 2 ≤ 384 by omega),
    u16_flat h (show 128 + 2 * i + 2 ≤ 384 by omega), i16_flat h (show 256 + 2 * i + 2 ≤ 384 by omega)]

theorem divisor_congr {s : State} {m : Memory}
    (h : ∀ a : Nat, (flatRegion s.src0 128).Holds a → read s.mem a = read m a) {i : Nat} (hi : i < 64) :
    divisor s i = divisor (s.withMem m) i := u16_flat h (by omega)

/-- A pixel of an RGB-family row is the same where the bytes of the row are. -/
theorem inputPixel_congr {s : State} {m : Memory} {l : Layout}
    (h : ∀ a : Nat, (pixelInput l s).Holds a → read s.mem a = read m a) {r j : Nat} (hr : r < s.rowCount) (hj : j < s.w0) :
    inputPixel s l r j = inputPixel (s.withMem m) l r j := by
  have hb : ∀ k, k < pixelBytes l → s8 s.mem (s.src0.toNat + r * s.ss0 + j * pixelBytes l + k) =
      s8 m (s.src0.toNat + r * s.ss0 + j * pixelBytes l + k) := fun k hk =>
    s8_congr (h _ (rowRegion_holds r (j * pixelBytes l + k) hr (pixel_in_row hj hk) (by omega)))
  show readPixel s.mem l _ = readPixel m l _
  unfold readPixel
  rw [hb _ (by cases l <;> decide), hb _ (by cases l <;> decide), hb _ (by cases l <;> decide)]
  rfl

theorem inSample_congr {s : State} {m : Memory} {n : Nat}
    (h : ∀ a : Nat, (rowRegion s.src0 n s.ss0 s.w0).Holds a → read s.mem a = read m a) {r j : Nat} (hr : r < n)
    (hj : j < s.w0) : inSample s r j = inSample (s.withMem m) r j := s8_rows h hr hj

theorem extSample_congr {s : State} {m : Memory} {n : Nat}
    (h : ∀ a : Nat, (rowRegion s.src0 n s.ss0 s.w0).Holds a → read s.mem a = read m a) {r : Nat} (hr : r < n)
    (hw : 1 ≤ s.w0) (j : Nat) : extSample s r j = extSample (s.withMem m) r j :=
  inSample_congr h hr (by omega)

theorem contextSample_congr {s : State} {m : Memory} (hs : s.ss0 ≤ s.src0.toNat)
    (h : ∀ a : Nat, (contextRegion s).Holds a → read s.mem a = read m a) {k j : Nat} (hk : k < s.rowCount + 2)
    (hj : j < s.w0) : contextSample s k j = contextSample (s.withMem m) k j :=
  s8_congr (h _ ⟨k, j, hk, hj, by simp only [contextRegion]; omega⟩)

theorem planeTriple_congr {s : State} {m : Memory} {n nc wc : Nat}
    (h0 : ∀ a : Nat, (rowRegion s.src0 n s.ss0 s.w0).Holds a → read s.mem a = read m a)
    (h1 : ∀ a : Nat, (rowRegion s.src1 nc s.ss1 wc).Holds a → read s.mem a = read m a)
    (h2 : ∀ a : Nat, (rowRegion s.src2 nc s.ss1 wc).Holds a → read s.mem a = read m a) {r j rc jc : Nat} (hr : r < n)
    (hj : j < s.w0) (hrc : rc < nc) (hjc : jc < wc) : planeTriple s r j rc jc = planeTriple (s.withMem m) r j rc jc := by
  show Triple.mk _ _ _ = Triple.mk _ _ _
  rw [s8_rows h0 hr hj, s8_rows h1 hrc hjc, s8_rows h2 hrc hjc]
  rfl

/-- The horizontal blend reads only columns of its row (45_resample.md R300, R301). -/
theorem fancyRow_congr {a b : Nat → Int} {w k : Nat} {bL bR : Int} {first last : Int → Int}
    (h : ∀ j, j < w → a j = b j) {i : Nat} (hi : i < 2 * w) :
    fancyRow a w k bL bR first last i = fancyRow b w k bL bR first last i := by
  unfold fancyRow
  by_cases h0 : i = 0
  · rw [if_pos h0, if_pos h0, h 0 (by omega)]
  · rw [if_neg h0, if_neg h0]
    by_cases h1 : i + 1 = 2 * w
    · rw [if_pos h1, if_pos h1, h (w - 1) (by omega)]
    · rw [if_neg h1, if_neg h1]
      by_cases h2 : i % 2 = 0
      · rw [if_pos h2, if_pos h2, h (i / 2) (by omega), h (i / 2 - 1) (by omega)]
      · rw [if_neg h2, if_neg h2, h (i / 2) (by omega), h (i / 2 + 1) (by omega)]

theorem columnSum_congr {s : State} {m : Memory} (hs : s.ss0 ≤ s.src0.toNat)
    (h : ∀ a : Nat, (contextRegion s).Holds a → read s.mem a = read m a) {y j : Nat} (hy : y < 2 * s.rowCount)
    (hj : j < s.w0) : columnSum s y j = columnSum (s.withMem m) y j := by
  unfold columnSum
  rw [contextSample_congr hs h (by omega) hj, contextSample_congr hs h (k := if y % 2 = 0 then y / 2 else y / 2 + 2)
    (by split <;> omega) hj]

/-- The context rows of an accepted command do not start below 0 (45_resample.md R303). -/
theorem context_base {s : State} {p : Plan} {size : Nat} (h : p.check size = none) (hp : contextRegion s ∈ p.inputs) :
    s.ss0 ≤ s.src0.toNat := by
  have hr := (check_none_iff.mp h).2.2.1
  simp only [Plan.inRange, Bool.and_eq_true, List.all_eq_true] at hr
  have := inRange_iff.mp (hr.1 _ hp)
  simp only [contextRegion, Region.lo] at this
  omega

theorem imageOk_width {s : State} (h : s.imageOk = true) : 1 ≤ s.w0 := by
  simp only [State.imageOk, Bool.and_eq_true, Nat.ble_eq] at h
  exact h.2

theorem down_width {k : Nat} {s : State} {size : Nat} (h : (planDown k s).check size = none) : 1 ≤ s.w0 := by
  have := (check_none_iff.mp h).1
  simp only [planDown, Bool.and_eq_true] at this
  exact imageOk_width this.1.1

/-- The output bytes of an accepted command depend on the bytes of its input regions alone (00_scope.md R15). -/
theorem outputCells_congr (i : Instr) {s : State} {m : Memory} (hc : (plan s i).check s.cfg.dmemSize = none)
    (h : agreeOn (plan s i).inputs s.mem m) : outputCells i s = outputCells i (s.withMem m) := by
  cases i with
  | nop => rfl
  | fdctIslow =>
    show fdctIntCells s _ = fdctIntCells s _
    rw [fdctInput_congr (agreeOn_cons.mp h).1]
  | fdctIfast =>
    show fdctIntCells s _ = fdctIntCells s _
    rw [fdctInput_congr (agreeOn_cons.mp h).1]
  | fdctFloat =>
    show fdctFloatCells s _ = fdctFloatCells s _
    rw [fdctInput_congr (agreeOn_cons.mp h).1]
  | quantInt =>
    have h1 := (agreeOn_cons.mp h).1
    have h2 := (agreeOn_cons.mp (agreeOn_cons.mp h).2).1
    show quantIntCells s = quantIntCells (s.withMem m)
    unfold quantIntCells
    refine gridCells_congr fun i _ hi _ => ?_
    show cellsLE _ (wrap16 (quantInt (readEntry s.mem s.tbl.toNat i) (i16 s.mem (s.src0.toNat + 2 * i)))) 2 =
      cellsLE _ (wrap16 (quantInt (readEntry m s.tbl.toNat i) (i16 m (s.src0.toNat + 2 * i)))) 2
    rw [readEntry_congr h2 hi, i16_flat h1 (by omega)]
    rfl
  | quantFloat =>
    have h1 := (agreeOn_cons.mp h).1
    have h2 := (agreeOn_cons.mp (agreeOn_cons.mp h).2).1
    show quantFloatCells s = quantFloatCells (s.withMem m)
    unfold quantFloatCells
    refine gridCells_congr fun i _ hi _ => ?_
    show cellsLE _ (wrap16 (quantFloat s.cfg.floatQuant (f32 s.mem (s.src0.toNat + 4 * i)) (f32 s.mem (s.tbl.toNat + 4 * i)))) 2 =
      cellsLE _ (wrap16 (quantFloat s.cfg.floatQuant (f32 m (s.src0.toNat + 4 * i)) (f32 m (s.tbl.toNat + 4 * i)))) 2
    rw [f32_flat h1 (by omega), f32_flat h2 (by omega)]
    rfl
  | qtblPrep =>
    show qtblPrepCells s = qtblPrepCells (s.withMem m)
    unfold qtblPrepCells tableCells
    refine gridCells_congr fun i _ hi _ => ?_
    simp only [divisor_congr (agreeOn_cons.mp h).1 hi]
    rfl
  | idctIslow =>
    simp only [outputCells, idctIslowCells, dequantInt_congr (agreeOn_cons.mp h).1 (agreeOn_cons.mp (agreeOn_cons.mp h).2).1]
    rfl
  | idctIfast =>
    simp only [outputCells, idctIfastCells, dequantInt_congr (agreeOn_cons.mp h).1 (agreeOn_cons.mp (agreeOn_cons.mp h).2).1]
    rfl
  | idctFloat =>
    simp only [outputCells, idctFloatCells,
      dequantFloat_congr (agreeOn_cons.mp h).1 (agreeOn_cons.mp (agreeOn_cons.mp h).2).1]
    rfl
  | idct2x2 =>
    simp only [outputCells, idct2x2Cells, dequantInt_congr (agreeOn_cons.mp h).1 (agreeOn_cons.mp (agreeOn_cons.mp h).2).1]
    rfl
  | idct4x4 =>
    simp only [outputCells, idct4x4Cells, dequantInt_congr (agreeOn_cons.mp h).1 (agreeOn_cons.mp (agreeOn_cons.mp h).2).1]
    rfl
  | idct6x6 =>
    simp only [outputCells, idct6x6Cells, dequantInt_congr (agreeOn_cons.mp h).1 (agreeOn_cons.mp (agreeOn_cons.mp h).2).1]
    rfl
  | idct12x12 =>
    simp only [outputCells, idct12x12Cells,
      dequantInt_congr (agreeOn_cons.mp h).1 (agreeOn_cons.mp (agreeOn_cons.mp h).2).1]
    rfl
  | rgbYcc l =>
    refine gridCells_congr fun r j hr hj => ?_
    simp only [inputPixel_congr (agreeOn_cons.mp h).1 hr hj]
    rfl
  | rgbGray l =>
    refine gridCells_congr fun r j hr hj => ?_
    simp only [inputPixel_congr (agreeOn_cons.mp h).1 hr hj]
    rfl
  | yccRgb l =>
    obtain ⟨h0, h⟩ := agreeOn_cons.mp h
    obtain ⟨h1, h⟩ := agreeOn_cons.mp h
    refine gridCells_congr fun r j hr hj => ?_
    simp only [planeTriple_congr h0 h1 (agreeOn_cons.mp h).1 hr hj hr hj]
    rfl
  | yccRgb565 =>
    obtain ⟨h0, h⟩ := agreeOn_cons.mp h
    obtain ⟨h1, h⟩ := agreeOn_cons.mp h
    refine gridCells_congr fun r j hr hj => ?_
    simp only [planeTriple_congr h0 h1 (agreeOn_cons.mp h).1 hr hj hr hj]
    rfl
  | downH2v1 =>
    refine gridCells_congr fun r j hr hj => ?_
    simp only [downH2v1Sample, extSample_congr (agreeOn_cons.mp h).1 (show r < 1 * s.rowCount by omega) (down_width hc)]
    rfl
  | downH2v2 =>
    refine gridCells_congr fun r j hr hj => ?_
    simp only [downH2v2Sample, extSample_congr (agreeOn_cons.mp h).1 (show 2 * r < 2 * s.rowCount by omega) (down_width hc),
      extSample_congr (agreeOn_cons.mp h).1 (show 2 * r + 1 < 2 * s.rowCount by omega) (down_width hc)]
    rfl
  | upH2v1Box =>
    refine gridCells_congr fun r j hr hj => ?_
    simp only [inSample_congr (agreeOn_cons.mp h).1 hr (show j / 2 < s.w0 by omega)]
    rfl
  | upH2v2Box =>
    refine gridCells_congr fun r j hr hj => ?_
    simp only [inSample_congr (agreeOn_cons.mp h).1 (show r / 2 < s.rowCount by omega) (show j / 2 < s.w0 by omega)]
    rfl
  | upH2v1Fancy =>
    refine gridCells_congr fun r j hr hj => ?_
    have := fancyRow_congr (k := 2) (bL := 1) (bR := 2) (first := fun x => x) (last := fun x => x)
      (fun j hj => inSample_congr (agreeOn_cons.mp h).1 hr hj) hj
    simp only [upH2v1FancySample, this]
    rfl
  | upH1v2Fancy =>
    have hb := context_base hc List.mem_cons_self
    refine gridCells_congr fun r j hr hj => ?_
    simp only [upH1v2FancySample, columnSum_congr hb (agreeOn_cons.mp h).1 hr hj]
    rfl
  | upH2v2Fancy =>
    have hb := context_base hc List.mem_cons_self
    refine gridCells_congr fun r j hr hj => ?_
    have := fancyRow_congr (k := 4) (bL := 8) (bR := 7) (first := fun x => asr (4 * x + 8) 4)
      (last := fun x => asr (4 * x + 7) 4) (fun j hj => columnSum_congr hb (agreeOn_cons.mp h).1 hr hj) hj
    simp only [upH2v2FancySample, this]
    rfl
  | mergedH2v1 l =>
    obtain ⟨h0, h⟩ := agreeOn_cons.mp h
    obtain ⟨h1, h⟩ := agreeOn_cons.mp h
    refine gridCells_congr fun r j hr hj => ?_
    simp only [planeTriple_congr h0 h1 (agreeOn_cons.mp h).1 (show r < 1 * s.rowCount by omega) hj hr
      (show j / 2 < s.halfWidth by unfold State.halfWidth; omega)]
    rfl
  | mergedH2v2 l =>
    obtain ⟨h0, h⟩ := agreeOn_cons.mp h
    obtain ⟨h1, h⟩ := agreeOn_cons.mp h
    refine gridCells_congr fun r j hr hj => ?_
    simp only [planeTriple_congr h0 h1 (agreeOn_cons.mp h).1 hr hj (show r / 2 < s.rowCount by omega)
      (show j / 2 < s.halfWidth by unfold State.halfWidth; omega)]
    rfl

/-- The data check of a command depends on the bytes of its input regions alone (60_exceptions.md R403, check 7). -/
theorem dataCheck_congr (i : Instr) {s : State} {m : Memory} (h : agreeOn (plan s i).inputs s.mem m) :
    dataCheck i s = dataCheck i (s.withMem m) := by
  cases i with
  | qtblPrep =>
    have hd : ∀ k ∈ List.range 64, (divisor s k != 0) = (divisor (s.withMem m) k != 0) := fun k hk => by
      rw [divisor_congr (agreeOn_cons.mp h).1 (List.mem_range.mp hk)]
    show divisorsOk s = divisorsOk (s.withMem m)
    unfold divisorsOk
    rw [Bool.eq_iff_iff, List.all_eq_true, List.all_eq_true]
    exact ⟨fun hx k hk => hd k hk ▸ hx k hk, fun hx k hk => (hd k hk).symm ▸ hx k hk⟩
  | nop => rfl
  | fdctIslow => rfl
  | fdctIfast => rfl
  | fdctFloat => rfl
  | quantInt => rfl
  | quantFloat => rfl
  | idctIslow => rfl
  | idctIfast => rfl
  | idctFloat => rfl
  | idct2x2 => rfl
  | idct4x4 => rfl
  | idct6x6 => rfl
  | idct12x12 => rfl
  | rgbYcc l => rfl
  | rgbGray l => rfl
  | yccRgb l => rfl
  | yccRgb565 => rfl
  | downH2v1 => rfl
  | downH2v2 => rfl
  | upH2v1Box => rfl
  | upH2v2Box => rfl
  | upH2v1Fancy => rfl
  | upH1v2Fancy => rfl
  | upH2v2Fancy => rfl
  | mergedH2v1 l => rfl
  | mergedH2v2 l => rfl

end Sys2Proof.Machine
end

