-- ==== Sys2Proof/Machine/HostProgram.lean ====
section
/-! DEFINITION. The spec's notation for commands and host programs (30_encoding.md R118, R119), and the turns a host program
stands for: a program is run by a state that has its turns on the agenda (log 13). No step reads anything of this file. -/

namespace Sys2Proof.Machine

/-- The name of a layout (30_encoding.md R116). -/
def layoutName : Layout → String
  | .rgb => "RGB"
  | .bgr => "BGR"
  | .rgbx => "RGBX"
  | .bgrx => "BGRX"
  | .xrgb => "XRGB"
  | .xbgr => "XBGR"

/-- A command as 30_encoding.md R118 writes it: `MNEMONIC`, or `MNEMONIC.LAYOUTNAME` where the operation uses `LAYOUT`. -/
def assembly : Instr → String
  | .nop => "NOP"
  | .fdctIslow => "FDCT_ISLOW"
  | .fdctIfast => "FDCT_IFAST"
  | .fdctFloat => "FDCT_FLOAT"
  | .quantInt => "QUANT_INT"
  | .quantFloat => "QUANT_FLOAT"
  | .qtblPrep => "QTBL_PREP"
  | .idctIslow => "IDCT_ISLOW"
  | .idctIfast => "IDCT_IFAST"
  | .idctFloat => "IDCT_FLOAT"
  | .idct2x2 => "IDCT_2X2"
  | .idct4x4 => "IDCT_4X4"
  | .idct6x6 => "IDCT_6X6"
  | .idct12x12 => "IDCT_12X12"
  | .rgbYcc l => "RGB_YCC." ++ layoutName l
  | .rgbGray l => "RGB_GRAY." ++ layoutName l
  | .yccRgb l => "YCC_RGB." ++ layoutName l
  | .yccRgb565 => "YCC_RGB565"
  | .downH2v1 => "DOWN_H2V1"
  | .downH2v2 => "DOWN_H2V2"
  | .upH2v1Box => "UP_H2V1_BOX"
  | .upH2v2Box => "UP_H2V2_BOX"
  | .upH2v1Fancy => "UP_H2V1_FANCY"
  | .upH1v2Fancy => "UP_H1V2_FANCY"
  | .upH2v2Fancy => "UP_H2V2_FANCY"
  | .mergedH2v1 l => "MERGED_H2V1." ++ layoutName l
  | .mergedH2v2 l => "MERGED_H2V2." ++ layoutName l

/-- The registers by name (10_state.md R34). -/
inductive RegName where
  | ID
  | CAP
  | CTRL
  | STATUS
  | CMD
  | SRC0
  | SRC1
  | SRC2
  | DST0
  | DST1
  | DST2
  | TBL
  | SSTRIDE
  | DSTRIDE
  | WIDTH
  | ROWS
  deriving DecidableEq, Repr

/-- The offset of a register (10_state.md R34). -/
def regOffset : RegName → BitVec 8
  | .ID => 0x00#8
  | .CAP => 0x04#8
  | .CTRL => 0x08#8
  | .STATUS => 0x0C#8
  | .CMD => 0x10#8
  | .SRC0 => 0x14#8
  | .SRC1 => 0x18#8
  | .SRC2 => 0x1C#8
  | .DST0 => 0x20#8
  | .DST1 => 0x24#8
  | .DST2 => 0x28#8
  | .TBL => 0x2C#8
  | .SSTRIDE => 0x30#8
  | .DSTRIDE => 0x34#8
  | .WIDTH => 0x38#8
  | .ROWS => 0x3C#8

/-- A statement of a host program (30_encoding.md R119). `memf` takes the encodings of its values. -/
inductive Statement where
  | wr (reg : RegName) (value : Word)
  | rd (reg : RegName)
  | mem8 (addr : Nat) (values : List Int)
  | mem16 (addr : Nat) (values : List Int)
  | mem32 (addr : Nat) (values : List Int)
  | memf (addr : Nat) (values : List F32)
  | cmd (instr : Instr)
  | start
  | wait
  | run (instr : Instr)
  | ack
  deriving DecidableEq, Repr

/-- The turn of a register write. -/
def writeTurn (r : RegName) (v : Word) : Turn := .host (.regWrite (regOffset r) .word v)

/-- The turn of a register read. -/
def readTurn (r : RegName) : Turn := .host (.regRead (regOffset r) .word)

/-- The turns that write successive values of one width. -/
def memTurns (w : Width) : Nat → List Int → List Turn
  | _, [] => []
  | a, v :: vs => .host (.memWrite (BitVec.ofNat 32 a) w (BitVec.ofInt 32 v)) :: memTurns w (a + w.bytes) vs

/-- `start` with the current `IRQ_EN` (30_encoding.md R119). -/
def startTurn (irqEn : Bool) : Turn := writeTurn .CTRL (if irqEn then 0x3#32 else 0x1#32)

/-- `wait` (30_encoding.md R119), with the engine's turn taken before its first read, so that the loop ends at that read: one of the
schedules that 10_state.md R30 allows (log 13). -/
def waitTurns : List Turn := [.engine, readTurn .STATUS]

/-- The turns of one statement, where `irqEn` is `IRQ_EN` before it. -/
def statementTurns (irqEn : Bool) : Statement → List Turn
  | .wr r v => [writeTurn r v]
  | .rd r => [readTurn r]
  | .mem8 a vs => memTurns .byte a vs
  | .mem16 a vs => memTurns .half a vs
  | .mem32 a vs => memTurns .word a vs
  | .memf a vs => memTurns .word a (vs.map fun v => (v.toNat : Int))
  | .cmd i => [writeTurn .CMD (encode i)]
  | .start => [startTurn irqEn]
  | .wait => waitTurns
  | .run i => writeTurn .CMD (encode i) :: startTurn irqEn :: waitTurns
  | .ack => [writeTurn .STATUS 0x6#32]

/-- `IRQ_EN` after a statement (10_state.md R38; with `SRST` it is 0, log 8). -/
def irqEnAfter (irqEn : Bool) : Statement → Bool
  | .wr .CTRL v => v.getLsbD 1 && !v.getLsbD 2
  | _ => irqEn

/-- The turns of a host program (30_encoding.md R119). -/
def programTurns (irqEn : Bool) : List Statement → List Turn
  | [] => []
  | x :: xs => statementTurns irqEn x ++ programTurns (irqEnAfter irqEn x) xs

/-- The state that runs a host program from here. -/
def State.withProgram (s : State) (p : List Statement) : State := { s with agenda := programTurns s.irqEn p }

end Sys2Proof.Machine
end

