-- ==== Sys2Proof/Tests/Slice0.lean ====
section
/-! SUPPORT. Tests of the model against words, values and traces that the spec writes out (30_encoding.md, 95_test_vectors.md), or that
follow from its formulas by hand, each one step on a small state; and, for every statement with hypotheses, a state that meets
them. -/

namespace Sys2Proof.Tests

open Sys2Proof Sys2Proof.Machine Sys2Proof.Claims

-- One theorem after another: side by side, the checks of this file need more memory than the build has.
set_option Elab.async false

/-! ## Helpers -/

/-- Little-endian values of `w` bytes from an address on. -/
def values (a w : Nat) (vs : List Int) : List Host.Cell :=
  vs.zipIdx.flatMap fun p => Memory.cellsLE (a + w * p.2) p.1 w

/-- A memory with these cells, which stand in the order of their addresses. -/
def memory (cells : List Host.Cell) : Memory := cells.filter fun c => c.2 != 0#8

/-- The state after a command, or the state itself where it does not answer a next state. -/
def after (i : Instr) (s : State) : State :=
  match exec i s with
  | .next t => t
  | .fault _ => s
  | .refused _ => s

/-- The state after one step, or the state itself where it does not answer a next state. -/
def stepped (s : State) : State :=
  match step s with
  | .next t => t
  | .fault _ => s
  | .refused _ => s

/-- Bytes of the data memory. -/
def bytesAt (s : State) (a n : Nat) : List Nat := (List.range n).map fun k => (Memory.read s.mem (a + k)).toNat

/-- 16-bit integers of the data memory. -/
def intsAt (s : State) (a n : Nat) : List Int := (List.range n).map fun k => Memory.i16 s.mem (a + 2 * k)

/-- Registers that every command accepts: two pixels in one row, and no two regions near each other. -/
def demo : State :=
  { State.reset with
    busy := true, src0 := 0x1000#32, src1 := 0x2000#32, src2 := 0x3000#32, dst0 := 0x4000#32, dst1 := 0x5000#32
    dst2 := 0x6000#32, tbl := 0x7000#32, sstride := 0x00100010#32, dstride := 0x00400040#32, width := 0x00010002#32
    nrows := 1#16 }

/-- A property of rows and columns checked one by one holds below the bounds. -/
theorem below {n w : Nat} {P : Nat → Nat → Prop} (h : ∀ r, r < n → ∀ j, j < w → P r j) : ∀ r j, r < n → j < w → P r j :=
  fun r j hr hj => h r hr j hj

/-! ## Well-formed host accesses: one ill-formed term for each check -/

theorem test_wellformed_register_read : (HostAccess.regRead 0x0C#8 .word).wellFormed 65536 = true := by decide

theorem test_illformed_register_width : (HostAccess.regRead 0x0C#8 .half).wellFormed 65536 = false := by decide

theorem test_illformed_register_alignment : (HostAccess.regWrite 0x0E#8 .word 0#32).wellFormed 65536 = false := by decide

theorem test_wellformed_memory_end : (HostAccess.memWrite 0xFFFC#32 .word 0#32).wellFormed 65536 = true := by decide

theorem test_illformed_memory_alignment : (HostAccess.memRead 0x0102#32 .word).wellFormed 65536 = false := by decide

theorem test_illformed_memory_bound : (HostAccess.memRead 0x10000#32 .byte).wellFormed 65536 = false := by decide

theorem test_refuses_illformed_register :
    step { State.reset with agenda := [.host (.regWrite 0x10#8 .byte 0#32)] } = .refused .registerAccess := by rfl

theorem test_refuses_illformed_memory :
    step { State.reset with agenda := [.host (.memRead 0xFFFF#32 .half)] } = .refused .memoryAccess := by rfl

/-! ## Decoding: words from 30_encoding.md R112, R116 and R118 -/

theorem test_decode_nop : decode 0x00000000#32 = .ok .nop := rfl

theorem test_decode_fdct : decode 0x00000010#32 = .ok .fdctIslow ∧ decode 0x00000011#32 = .ok .fdctIfast ∧
    decode 0x00000012#32 = .ok .fdctFloat :=
  ⟨rfl, rfl, rfl⟩

theorem test_decode_quant : decode 0x00000020#32 = .ok .quantInt ∧ decode 0x00000021#32 = .ok .quantFloat ∧
    decode 0x00000022#32 = .ok .qtblPrep :=
  ⟨rfl, rfl, rfl⟩

theorem test_decode_idct : decode 0x00000030#32 = .ok .idctIslow ∧ decode 0x00000031#32 = .ok .idctIfast ∧
    decode 0x00000032#32 = .ok .idctFloat :=
  ⟨rfl, rfl, rfl⟩

theorem test_decode_idct_sizes : decode 0x00000033#32 = .ok .idct2x2 ∧ decode 0x00000034#32 = .ok .idct4x4 ∧
    decode 0x00000035#32 = .ok .idct6x6 ∧ decode 0x00000036#32 = .ok .idct12x12 :=
  ⟨rfl, rfl, rfl, rfl⟩

theorem test_decode_colour : decode 0x00000340#32 = .ok (.rgbYcc .bgrx) ∧ decode 0x00000541#32 = .ok (.rgbGray .xbgr) ∧
    decode 0x00000442#32 = .ok (.yccRgb .xrgb) ∧ decode 0x00000043#32 = .ok .yccRgb565 :=
  ⟨rfl, rfl, rfl, rfl⟩

theorem test_decode_down : decode 0x00000050#32 = .ok .downH2v1 ∧ decode 0x00000051#32 = .ok .downH2v2 :=
  ⟨rfl, rfl⟩

theorem test_decode_up : decode 0x00000052#32 = .ok .upH2v1Box ∧ decode 0x00000053#32 = .ok .upH2v2Box ∧
    decode 0x00000054#32 = .ok .upH2v1Fancy ∧ decode 0x00000055#32 = .ok .upH1v2Fancy ∧
    decode 0x00000056#32 = .ok .upH2v2Fancy :=
  ⟨rfl, rfl, rfl, rfl, rfl⟩

theorem test_decode_merged : decode 0x00000258#32 = .ok (.mergedH2v1 .rgbx) ∧ decode 0x00000159#32 = .ok (.mergedH2v2 .bgr) :=
  ⟨rfl, rfl⟩

theorem test_decode_unassigned : decode 0x00000057#32 = .error .opcode ∧ decode 0x0000005A#32 = .error .opcode ∧
    decode 0x00000F01#32 = .error .opcode :=
  ⟨rfl, rfl, rfl⟩

theorem test_decode_reserved : decode 0x00001000#32 = .error .reserved ∧ decode 0x80000010#32 = .error .reserved ∧
    decode 0x00000110#32 = .error .reserved ∧ decode 0x00000640#32 = .error .reserved ∧
    decode 0x00000143#32 = .error .reserved :=
  ⟨rfl, rfl, rfl, rfl, rfl⟩

theorem test_table_word : decodeTableWord 32 0x340 = some (.rgbYcc .bgrx) := by decide

theorem test_encode : encode (.rgbYcc .bgrx) = 0x00000340#32 := by decide

/-- The example of 30_encoding.md R118, and the expansions of R119. -/
theorem test_host_notation : assembly (.rgbYcc .bgrx) = "RGB_YCC.BGRX" ∧
    programTurns false [.wr .CTRL 0x2#32, .mem16 0xA [-12, 10], .run .qtblPrep, .ack] =
      [.host (.regWrite 0x08#8 .word 0x2#32), .host (.memWrite 0xA#32 .half 0xFFFFFFF4#32), .host (.memWrite 0xC#32 .half 0xA#32),
        .host (.regWrite 0x10#8 .word 0x22#32), .host (.regWrite 0x08#8 .word 0x3#32), .engine, .host (.regRead 0x0C#8 .word),
        .host (.regWrite 0x0C#8 .word 0x6#32)] := by decide

/-- The next step after placing a word at reset runs that command: `NOP` succeeds, `RGB_YCC` reports `ERR_PARAM` with `NROWS = 0`
(95_test_vectors.md E1, E10). -/
theorem test_placed_word : (stepped (State.reset.withFetchWord 32 0)).statusWord = 0x2#32 ∧
    (stepped (State.reset.withFetchWord 32 0x40)).statusWord = 0x306#32 := by decide

/-! ## Registers, interrupt and reset: the trace of 95_test_vectors.md 2.3 -/

theorem test_identification : State.reset.readReg 0x00#8 = 0x44424531#32 ∧ State.reset.readReg 0x04#8 = 0x7F#32 ∧
    State.reset.readReg 0xFC#8 = 0#32 := by decide

/-- Steps 3 and 4: a write of `DST0` and a second `START` while busy change nothing. -/
theorem test_busy_ignores : ({ demo with dst0 := 0x81#32 }.writeReg 0x20#8 0x100#32).dst0 = 0x81#32 ∧
    (demo.writeReg 0x08#8 0x3#32).busy = true := by decide

/-- Steps 5 and 6: the error is reported and raises the line; acknowledging leaves `ERRCODE`. -/
theorem test_error_and_acknowledge :
    let s := after .qtblPrep { demo with dst0 := 0x81#32, irqEn := true }
    s.statusWord = 0x406#32 ∧ s.irq = true ∧ (s.writeReg 0x0C#8 0x6#32).statusWord = 0x400#32 := by decide

/-- A hazard: a host read of an output byte of the pending command. -/
theorem test_hazard : step { demo with cmd := 0x10#32, agenda := [.host (.memRead 0x407C#32 .word)] } = .fault .hazard := by rfl

/-! ## Check order: 95_test_vectors.md 2.2 -/

/-- E12 and E14. -/
theorem test_param : (after .downH2v1 { demo with width := 0x00020005#32 }).statusWord = 0x306#32 ∧
    (after .upH2v1Fancy { demo with width := 1#32 }).statusWord = 0x306#32 := by decide

/-- E29: odd and out of range. E19: odd `DS0`. -/
theorem test_align : (after .fdctIslow { demo with dst0 := 0xFFFF#32 }).statusWord = 0x406#32 ∧
    (after .yccRgb565 { demo with dstride := 3#32 }).statusWord = 0x406#32 := by decide

/-- E20 and E22. -/
theorem test_range : (after .fdctIslow { demo with dst0 := 0xFF82#32 }).statusWord = 0x506#32 ∧
    (after .upH1v2Fancy { demo with src0 := 0x8#32 }).statusWord = 0x506#32 := by decide

/-- E24: inside the gap between input rows. E25: two outputs overlap. -/
theorem test_overlap : (after .fdctIslow { demo with dst0 := 0x1008#32 }).statusWord = 0x606#32 ∧
    (after (.rgbYcc .rgb) { demo with dst2 := 0x5000#32 }).statusWord = 0x606#32 := by decide

/-- E21: an output span ending exactly at `DMEM_SIZE` is legal. -/
theorem test_end_of_memory :
    bytesAt (after .fdctIslow { demo with src0 := 0#32, sstride := 8#32, dst0 := 0xFF80#32 }) 0xFF80 4 = [0x00, 0xE0, 0, 0] := by
  decide +kernel

/-! ## Forward DCT: 95_test_vectors.md section 3 -/

/-- The horizontal ramp of section 3.2. -/
def ramp : State :=
  { demo with mem := memory ((List.range 8).flatMap fun y => values (0x1000 + 16 * y) 1 [0, 32, 64, 96, 128, 160, 192, 224]) }

theorem test_fdct_islow : intsAt (after .fdctIslow ramp) 0x4000 9 = [-1024, -4664, 0, -488, 0, -146, 0, -36, 0] := by
  decide +kernel

theorem test_fdct_ifast : intsAt (after .fdctIfast ramp) 0x4000 9 = [-1024, -6464, 0, -568, 0, -120, 0, -16, 0] := by
  decide +kernel

/-- A flat block of 200 gives 4608.0 and `+0.0` (41_fdct.md R159). -/
theorem test_fdct_float :
    let s := { demo with sstride := 0#32, mem := memory (values 0x1000 1 [200, 200, 200, 200, 200, 200, 200, 200]) }
    (List.range 9).map (fun k => Memory.f32 (after .fdctFloat s).mem (0x4000 + 4 * k)) =
      [0x45900000#32, 0#32, 0#32, 0#32, 0#32, 0#32, 0#32, 0#32, 0#32] := by decide +kernel

/-! ## Quantizer: section 4 -/

/-- Divisor entries of section 4.1. -/
theorem test_prepared_entries : [1, 2, 3, 10, 255, 1000, 65535].map prepareEntry =
    [⟨1, 0, -16⟩, ⟨32768, 1, 0⟩, ⟨43691, 1, 1⟩, ⟨52429, 5, 3⟩, ⟨32897, 127, 7⟩, ⟨33554, 501, 9⟩, ⟨32769, 32767, 15⟩] := by decide

/-- E28: every entry of the table of divisor 16 is `(32768, 8, 3)`. -/
theorem test_qtbl_prep :
    let s := after .qtblPrep { demo with mem := memory (values 0x1000 2 (List.replicate 64 16)) }
    s.statusWord = 0x2#32 ∧ readEntry s.mem 0x4000 63 = ⟨32768, 8, 3⟩ := by decide +kernel

/-- E27: divisor 63 is 0. -/
theorem test_qtbl_prep_zero :
    (after .qtblPrep { demo with mem := memory (values 0x1000 2 (List.replicate 63 16)) }).statusWord = 0x706#32 := by
  decide +kernel

/-- Divisor 16 (42_quant.md R184): halves round away from 0. -/
theorem test_quant_int :
    intsAt (after .quantInt { demo with
      mem := memory (values 0x1000 2 [7, 8, -8, 16, 24, -24, 32767, -32768] ++ values 0x7000 2 (List.replicate 8 32768) ++
        values 0x7080 2 (List.replicate 8 8) ++ values 0x7100 2 (List.replicate 8 3)) }) 0x4000 8 =
      [0, 1, -1, 1, 2, -2, 2048, -2048] := by decide +kernel

/-- Rows of section 4.3: 24/16, -8/16, 100000/1, -20000/1, 1/0, NaN. -/
theorem test_quant_float :
    intsAt (after .quantFloat { demo with
      mem := memory (values 0x1000 4 [0x41C00000, 0xC1000000, 0x47C35000, 0xC69C4000, 0x3F800000, 0x7FC00000] ++
        values 0x7000 4 [0x41800000, 0x41800000, 0x3F800000, 0x3F800000, 0, 0x3F800000]) }) 0x4000 6 =
      [2, 0, -31072, -19999, -16385, -16384] := by decide +kernel

/-! ## Inverse DCT: section 5 -/

/-- The example block of section 5.2 with every multiplier 8. -/
def example52 : State :=
  { demo with mem := memory (values 0x1000 2 [80, -40] ++ values 0x7000 2 (List.replicate 64 8)) }

theorem test_idct_islow : bytesAt (after .idctIslow example52) 0x41C0 8 = [153, 161, 177, 197, 219, 239, 255, 255] := by
  decide +kernel

/-- The plain table in place of the prescaled one (section 5.2), and `dq = 4` in both rounding modes (5.1). -/
theorem test_idct_ifast : bytesAt (after .idctIfast example52) 0x4000 8 = [138, 140, 142, 146, 150, 154, 157, 158] := by
  decide +kernel

theorem test_idct_ifast_rounding :
    let s : State := { demo with mem := memory (values 0x1000 2 [4] ++ values 0x7000 2 [4]) }
    bytesAt (after .idctIfast s) 0x4000 2 = [129, 129] ∧
      bytesAt (after .idctIfast { s with cfg := { Config.dbe1 with ifastRounding := .truncate } }) 0x4000 2 = [128, 128] := by
  decide +kernel

/-- `coef[0] = 5`, multiplier 2.0 gives 138; `dq = -8000` gives 153 with `mask10` (section 5.1). -/
theorem test_idct_float :
    bytesAt (after .idctFloat { demo with mem := memory (values 0x1000 2 [5] ++ values 0x7000 4 [0x40000000]) }) 0x4000 2 =
      [138, 138] ∧
    bytesAt (after .idctFloat { demo with
      cfg := { Config.dbe1 with rangeLimit := .mask10 }
      mem := memory (values 0x1000 2 [-1000] ++ values 0x7000 4 [0x3F800000]) }) 0x4000 2 = [153, 153] := by decide +kernel

theorem test_idct_2x2 : bytesAt (after .idct2x2 example52) 0x4040 2 = [172, 244] := by decide +kernel

theorem test_idct_4x4 : bytesAt (after .idct4x4 example52) 0x40C0 4 = [157, 187, 229, 255] := by decide +kernel

theorem test_idct_6x6 : bytesAt (after .idct6x6 example52) 0x4140 6 = [153, 168, 193, 223, 248, 255] := by decide +kernel

theorem test_idct_12x12 :
    bytesAt (after .idct12x12 example52) 0x42C0 12 = [152, 156, 163, 174, 186, 201, 215, 230, 242, 253, 255, 255] := by
  decide +kernel

/-- `mask10` wraps where `saturate` clamps: `dq = -8000` gives 152 (section 5.1). -/
theorem test_mask10 : limit .mask10 1000 = 104 ∧ limit .mask10 (-1000) = 152 ∧ limit .saturate 1000 = 255 := by decide

/-! ## Colour: section 6.3 -/

/-- Pure red and pure blue in `BGRX`, with filler bytes no rule reads. -/
def redBlue : State := { demo with mem := memory (values 0x1000 1 [0, 0, 255, 0x7A, 255, 0, 0, 0x11]) }

theorem test_rgb_ycc :
    let s := after (.rgbYcc .bgrx) redBlue
    bytesAt s 0x4000 2 = [76, 29] ∧ bytesAt s 0x5000 2 = [85, 255] ∧ bytesAt s 0x6000 2 = [255, 107] := by decide +kernel

theorem test_rgb_gray : bytesAt (after (.rgbGray .bgrx) redBlue) 0x4000 2 = [76, 29] := by decide +kernel

/-- The same two colours as planes. -/
def planes : State :=
  { demo with mem := memory (values 0x1000 1 [76, 29] ++ values 0x2000 1 [85, 255] ++ values 0x3000 1 [255, 107]) }

theorem test_ycc_rgb : bytesAt (after (.yccRgb .xrgb) planes) 0x4000 8 = [0xFF, 0xFE, 0, 0, 0xFF, 0, 0, 0xFE] := by
  decide +kernel

theorem test_ycc_rgb565 : bytesAt (after .yccRgb565 planes) 0x4000 4 = [0x00, 0xF8, 0x1F, 0x00] := by decide +kernel

/-! ## Resampling: section 7 -/

theorem test_down_h2v1 :
    bytesAt (after .downH2v1 { demo with width := 0x00030005#32, mem := memory (values 0x1000 1 [10, 11, 20, 21, 30]) }) 0x4000 3 =
      [10, 21, 30] := by decide +kernel

theorem test_down_h2v2 :
    bytesAt (after .downH2v2 { demo with
      width := 0x00020003#32, mem := memory (values 0x1000 1 [10, 20, 30] ++ values 0x1010 1 [40, 50, 60]) }) 0x4000 2 = [30, 45] := by
  decide +kernel

theorem test_up_h2v1_box : bytesAt (after .upH2v1Box { demo with mem := memory (values 0x1000 1 [7, 9]) }) 0x4000 4 = [7, 7, 9, 9] := by
  decide +kernel

theorem test_up_h2v2_box : bytesAt (after .upH2v2Box { demo with mem := memory (values 0x1000 1 [7, 9]) }) 0x4040 4 = [7, 7, 9, 9] := by
  decide +kernel

theorem test_up_h2v1_fancy :
    bytesAt (after .upH2v1Fancy { demo with width := 3#32, mem := memory (values 0x1000 1 [10, 20, 30]) }) 0x4000 6 =
      [10, 13, 17, 23, 27, 30] := by decide +kernel

/-- Three rows around the current one. -/
def threeRows : State :=
  { demo with
    mem := memory (values 0x0FF0 1 [50, 0] ++ values 0x1000 1 [100, 0] ++ values 0x1010 1 [150, 255]) }

theorem test_up_h1v2_fancy : bytesAt (after .upH1v2Fancy threeRows) 0x4000 2 = [87, 0] ∧
    bytesAt (after .upH1v2Fancy threeRows) 0x4040 2 = [113, 64] := by decide +kernel

theorem test_up_h2v2_fancy :
    let s := after .upH2v2Fancy { demo with
      mem := memory (values 0x0FF0 1 [0, 0] ++ values 0x1000 1 [100, 200] ++ values 0x1010 1 [100, 200]) }
    bytesAt s 0x4000 4 = [75, 94, 131, 150] ∧ bytesAt s 0x4040 4 = [100, 125, 175, 200] := by decide +kernel

/-- The example of 45_resample.md R311. -/
def merged : State :=
  { demo with
    width := 3#32
    mem := memory (values 0x1000 1 [76, 76, 150] ++ values 0x2000 1 [85, 44] ++ values 0x3000 1 [255, 21]) }

theorem test_merged_h2v1 : bytesAt (after (.mergedH2v1 .rgb) merged) 0x4000 9 = [254, 0, 0, 254, 0, 0, 0, 255, 1] := by
  decide +kernel

/-- The example of 45_resample.md R312. -/
theorem test_merged_h2v2 :
    let s := after (.mergedH2v2 .bgr) { demo with
      width := 1#32, mem := memory ([(0x1010, 255#8)] ++ values 0x2000 1 [128] ++ values 0x3000 1 [128]) }
    bytesAt s 0x4000 3 = [0, 0, 0] ∧ bytesAt s 0x4040 3 = [255, 255, 255] := by decide +kernel

/-! ## Binary32 -/

/-- Ties go to even, subnormal results are kept, an overflow is an infinity, `x - x` is `+0.0` and `0/0` is NaN (IEEE 754). -/
theorem test_float : fadd 0x4B800000#32 0x3F800000#32 = 0x4B800000#32 ∧ fmul 0x00800000#32 0x3F000000#32 = 0x00400000#32 ∧
    fmul 0x7F7FFFFF#32 0x40000000#32 = 0x7F800000#32 ∧ fsub 0xBF800000#32 0xBF800000#32 = 0#32 ∧
    fdiv 0x3F800000#32 0x40400000#32 = 0x3EAAAAAB#32 ∧ floatVal (fdiv 0#32 0#32) = .nan := by decide

/-- `-0/2 = -0`, `-1/0 = -inf`, `inf * 0` and `inf - inf` are NaN, `1 / -inf = -0` (IEEE 754). -/
theorem test_float_special : fdiv 0x80000000#32 0x40000000#32 = 0x80000000#32 ∧ fdiv 0xBF800000#32 0#32 = 0xFF800000#32 ∧
    floatVal (fmul 0x7F800000#32 0#32) = .nan ∧ floatVal (fsub 0x7F800000#32 0x7F800000#32) = .nan ∧
    fdiv 0x3F800000#32 0xFF800000#32 = 0x80000000#32 := by decide

/-! ## Witnesses: states and operands that meet the hypotheses of the statements -/

/-- `demo` passes the checks of every command in every layout. -/
theorem witness_accepts (i : Instr) : demo.accepts i := by
  cases i <;> first | rfl | (rename_i l; cases l <;> rfl)

/-- `DecodeErrorsByField`: an unassigned code, one below and one above the assigned ones; a reserved bit, a layout where there is none
and the first illegal layout; the last legal layout. -/
theorem witness_DecodeErrorsByField :
    ((0x57#32 : Word).toNat % 256 ∉ assignedOps ∧ (0xF#32 : Word).toNat % 256 ∉ assignedOps ∧ (0x5A#32 : Word).toNat % 256 ∉ assignedOps) ∧
      (reservedBad 0x1000#32 ∧ reservedBad 0x110#32 ∧ reservedBad 0x640#32) ∧
      ((0x540#32 : Word).toNat % 256 ∈ assignedOps ∧ ¬ reservedBad 0x540#32) := by
  unfold reservedBad; decide

/-- `StepRunsDecodedCommand`, `InterruptLine`: the engine's turn with a command, on the agenda or with nothing left on it, and an idle
turn. -/
theorem witness_StepRunsDecodedCommand :
    ({ demo with cmd := 0x540#32, agenda := [.engine, .powerOn] }.engineNext [.powerOn] ∧ demo.engineNext [] ∧
      State.reset.engineNext []) ∧ decode 0x540#32 = .ok (.rgbYcc .xbgr) ∧ demo.busy = true ∧ State.reset.busy = false :=
  ⟨⟨.inl rfl, .inr ⟨rfl, rfl⟩, .inr ⟨rfl, rfl⟩⟩, rfl, rfl, rfl⟩

theorem witness_PlacedCommandRunsNext : 0x559 < 2 ^ 32 ∧ decode (BitVec.ofNat 32 0x559) = .ok (.mergedH2v2 .xbgr) :=
  ⟨by decide, rfl⟩

/-- One word for each clause of `ControlRegister`: `SRST` with `START`, `START` while idle, `START` while busy, no bit. -/
theorem witness_ControlRegister :
    ((0x5#32 : Word).getLsbD 2 = true ∧ (0x5#32 : Word).getLsbD 1 = false) ∧
      ((0x3#32 : Word).getLsbD 2 = false ∧ (0x3#32 : Word).getLsbD 0 = true ∧ State.reset.busy = false) ∧
      ((0x1#32 : Word).getLsbD 2 = false ∧ demo.busy = true) ∧ ((0xFFFFFFF8#32 : Word).getLsbD 0 = false) := by decide

/-- The words of `StatusRegister`: a clause has no other condition than the turn. -/
theorem witness_StatusRegister :
    { demo with agenda := [.host (.regRead 0x0C#8 .word)] }.agenda = [.host (.regRead 0x0C#8 .word)] ∧
      { demo with agenda := [.host (.regWrite 0x0C#8 .word 0x6#32)] }.agenda = [.host (.regWrite 0x0C#8 .word 0x6#32)] :=
  ⟨rfl, rfl⟩

/-- The offsets of `RegisterReads` and `OperandWrites`: each fixed one is aligned, and the first and last of the reserved range. -/
theorem witness_RegisterReads_OperandWrites :
    (∀ o ∈ [0x00#8, 0x04#8, 0x10#8, 0x14#8, 0x18#8, 0x1C#8, 0x20#8, 0x24#8, 0x28#8, 0x2C#8, 0x30#8, 0x34#8, 0x38#8, 0x3C#8,
      0x40#8, 0xFC#8], o.toNat % 4 = 0) ∧ 0x40 ≤ (0x40#8).toNat ∧ 0x40 ≤ (0xFC#8).toNat ∧ ¬ 0x40 ≤ (0x3C#8).toNat ∧
      State.reset.busy = false := by decide

/-- `OperandsHeldWhileBusy`: offsets on both sides of `CTRL` and `STATUS`, the ends of the reserved range, and a step of a busy state
that is no reset. -/
theorem witness_OperandsHeldWhileBusy :
    demo.busy = true ∧ (∀ o ∈ [0x00#8, 0x04#8, 0x10#8, 0x3C#8, 0x40#8, 0xFC#8], o.toNat % 4 = 0 ∧ o ≠ 0x08#8 ∧ o ≠ 0x0C#8) ∧
      step { demo with agenda := [.host (.regWrite 0x08#8 .word 0x2#32)] } = .next { demo with irqEn := true } ∧
      (0x2#32 : Word).getLsbD 2 = false := ⟨rfl, by decide, rfl, by decide⟩

/-- The steps that `InterruptLine` speaks of answer a next state. -/
theorem witness_InterruptLine :
    step { demo with irqEn := true, agenda := [.engine] } = .next (after .nop { demo with irqEn := true }) ∧
      step { demo with agenda := [.host (.regWrite 0x0C#8 .word 0x2#32)] } = .next demo ∧
      step { State.reset with done := true, agenda := [.host (.regWrite 0x08#8 .word 0x3#32)] } =
        .next { State.reset with irqEn := true, busy := true } ∧
      step { demo with agenda := [.host (.regWrite 0x08#8 .word 0x0#32)] } = .next demo := ⟨rfl, rfl, rfl, rfl⟩

/-- The turns of both reset statements; a byte at each end of the memory and of an output span of the pending command, and one past
it; a pending word that names no command, of either kind. -/
theorem witness_RegistersAfterReset_MemoryAfterReset :
    ((0x7#32 : Word).getLsbD 2 = true ∧ State.reset.busy = false ∧ demo.busy = true ∧ 65535 < demo.cfg.dmemSize) ∧
      decode 0x10#32 = .ok .fdctIslow ∧ decode 0x57#32 = .error .opcode ∧ decode 0x640#32 = .error .reserved ∧
      ((plan demo .fdctIslow).outputs.any fun r => r.spans 0x4000 && r.spans 0x407F) = true ∧
      ((plan demo .fdctIslow).outputs.any fun r => r.spans 0x3FFF || r.spans 0x4080) = false :=
  ⟨by decide, rfl, rfl, rfl, by decide, by decide⟩

/-- `MemoryPort`: a word at the end of memory, idle, and a byte right behind the pending output span. -/
theorem witness_MemoryPort :
    ((0xFFFC#32 : Word).toNat % Width.word.bytes = 0 ∧ (0xFFFC#32 : Word).toNat + Width.word.bytes ≤ State.reset.cfg.dmemSize ∧
      ∀ k, k < Width.word.bytes → ¬ State.reset.pendingByte ((0xFFFC#32 : Word).toNat + k)) ∧
    ¬ { demo with cmd := 0x10#32 }.pendingByte 0x4080 := by
  refine ⟨⟨by decide, by decide, fun k _ h => by simp [State.pendingByte, State.reset] at h⟩, ?_⟩
  rintro ⟨-, i, hi, r, hr, h⟩
  cases (Except.ok.inj hi : Instr.fdctIslow = i)
  revert h
  exact (by decide : ∀ r ∈ (plan { demo with cmd := 0x10#32 } .fdctIslow).inputs ++ (plan { demo with cmd := 0x10#32 } .fdctIslow).outputs,
    ¬ (r.base ≤ ((0x4080 : Nat) : Int) ∧ ((0x4080 : Nat) : Int) < r.base + ((r.nrows : Int) - 1) * (r.stride : Int) + (r.rowbytes : Int))) r hr

/-- `HazardsAreTheOnlyFaults`: the first and last byte of a pending span, and its neighbours. -/
theorem witness_HazardsAreTheOnlyFaults :
    [0x0FFF, 0x1000, 0x1077, 0x1078, 0x3FFF, 0x4000, 0x407F, 0x4080].map { demo with cmd := 0x10#32 }.pendingSpans =
      [false, true, true, false, false, true, true, false] := by decide

/-- `RefusedAccesses`: each way out of a legal shape. -/
theorem witness_RefusedAccesses :
    step { demo with agenda := [.host (.regRead 0xFE#8 .word)] } = .refused .registerAccess ∧
      step { demo with agenda := [.host (.regWrite 0x08#8 .half 0x4#32)] } = .refused .registerAccess ∧
      step { demo with agenda := [.host (.memRead 0x1#32 .half)] } = .refused .memoryAccess ∧
      step { demo with agenda := [.host (.memWrite 0x10000#32 .byte 0#32)] } = .refused .memoryAccess := ⟨rfl, rfl, rfl, rfl⟩

/-- One state for each clause of `CheckOrder`, in its order; the state of a clause fails no earlier check and, but for the last two, some
later one. -/
theorem witness_CheckOrder :
    [{ demo with cmd := 0xF57#32, nrows := 0#16 }, { demo with cmd := 0x640#32, nrows := 0#16 },
      { demo with cmd := 0x43#32, nrows := 0#16, dst0 := 0xFFFF#32 }, { demo with cmd := 0x10#32, dst0 := 0xFFFF#32 },
      { demo with cmd := 0x10#32, dst0 := 0xFF82#32, src0 := 0xFF80#32 }, { demo with cmd := 0x22#32, dst0 := 0x1000#32 },
      { demo with cmd := 0x22#32 }, { demo with cmd := 0#32 }].map (fun s => (stepped s).errCode) =
      [1#8, 2#8, 3#8, 4#8, 5#8, 6#8, 7#8, 0#8] := by decide

/-- `FailedCommandsWriteNothing`. -/
theorem witness_FailedCommandsWriteNothing :
    { demo with cmd := 0xFF#32, irqEn := true }.engineNext [] ∧
      (stepped { demo with cmd := 0xFF#32, irqEn := true }).err = true := ⟨.inr ⟨rfl, rfl⟩, rfl⟩

/-- `CommandPurity`: two states with the same operands that differ in a byte outside the inputs. -/
theorem witness_CommandPurity :
    let t := { demo with done := true, mem := [(0x4000, 7#8)] }
    demo.sameOperands t ∧ t ≠ demo ∧
      ∀ r ∈ (plan demo .quantInt).inputs, ∀ a : Nat, r.Holds a → Memory.read demo.mem a = Memory.read t.mem a := by
  refine ⟨by unfold State.sameOperands; decide, by decide, fun r hr a ha => ?_⟩
  have : a ≠ 0x4000 := by
    rintro rfl
    obtain ⟨row, k, hrow, hk, h⟩ := ha
    have hr' : r = ⟨0x1000, 1, 0, 128⟩ ∨ r = ⟨0x7000, 1, 0, 384⟩ := by
      have : r ∈ [(⟨0x1000, 1, 0, 128⟩ : Region), ⟨0x7000, 1, 0, 384⟩] := hr
      simpa using this
    rcases hr' with rfl | rfl <;> simp_all <;> omega
  simp [Memory.read, demo, State.reset, this.symm]

/-- `InvariantKept`, `BusyChanges`, `MemoryChanges`: a `START`, a command that writes, a host write, each from a state with the
invariant. -/
theorem witness_InvariantKept_BusyChanges_MemoryChanges :
    let start := { State.reset with agenda := [.host (.regWrite 0x08#8 .word 0x1#32)] }
    let write := { State.reset with agenda := [.host (.memWrite 0x40#32 .word 0xFF#32)] }
    (start.Inv ∧ step start = .next { State.reset with busy := true }) ∧
      (write.Inv ∧ step write = .next { State.reset with mem := [(0x40, 0xFF#8)] }) ∧
      (ramp.Inv ∧ (stepped { ramp with cmd := 0x10#32 }).busy = false ∧
        Memory.read (stepped { ramp with cmd := 0x10#32 }).mem 0x4001 ≠ Memory.read ramp.mem 0x4001) := by
  refine ⟨⟨by unfold State.Inv; decide, rfl⟩, ⟨by unfold State.Inv; decide, rfl⟩, ?_⟩
  unfold State.Inv; decide +kernel

/-- The acceptance statements at the ends of memory: a span that ends with it, and one byte more; a context row that begins with it, and
one byte before; rows as far apart as they are long, and one byte nearer. -/
theorem witness_Acceptance :
    ({ demo with dst0 := 0xFF80#32 }.accepts .fdctIslow ∧ ¬ { demo with dst0 := 0xFF82#32 }.accepts .fdctIslow) ∧
      ({ demo with src0 := 0x10#32 }.accepts .upH2v2Fancy ∧ ¬ { demo with src0 := 0xF#32 }.accepts .upH2v2Fancy) ∧
      ({ demo with dstride := 12#32 }.accepts .idct12x12 ∧ ¬ { demo with dstride := 11#32 }.accepts .idct12x12) ∧
      ({ demo with dst0 := 0x1080#32 }.accepts .quantInt ∧ ¬ { demo with dst0 := 0x107E#32 }.accepts .quantInt) := by
  unfold State.accepts; decide

/-- `NopCompletes`: a word with `OP = 0` and another bit. -/
theorem witness_NopCompletes :
    { demo with cmd := 0x100#32 }.engineNext [] ∧ (0x100#32 : Word).toNat % 256 = 0 ∧ (0x100#32 : Word).toNat / 256 ≠ 0 :=
  ⟨.inr ⟨rfl, rfl⟩, by decide, by decide⟩

/-- A block whose 64 samples are the first 200, for `FlatBlockLaw`. -/
def flat : State :=
  { demo with sstride := 0#32, mem := memory (values 0x1000 1 [200, 200, 200, 200, 200, 200, 200, 200]) }

theorem witness_FlatBlockLaw : (∀ y x, y < 8 → x < 8 → shifted flat y x = 200 - 128) ∧ flat.accepts .fdctIslow ∧
    flat.accepts .fdctIfast ∧ flat.accepts .fdctFloat :=
  ⟨below (by decide +kernel), rfl, rfl, rfl⟩

/-- A block and a prepared table of divisor 16 for `QuantExactness`. -/
def quantDemo : State :=
  { demo with
    mem := memory (values 0x1000 2 [7, 8, -8, 16, 24, -24, 32767, -32768] ++ values 0x7000 2 (List.replicate 64 32768) ++
      values 0x7080 2 (List.replicate 64 8) ++ values 0x7100 2 (List.replicate 64 3)) }

/-- `QuantExactness` and `PreparedEntryFits`, at both ends of the divisors and values; and a table that is prepared, of divisor 16. -/
theorem witness_QuantExactness :
    (1 ≤ 1 ∧ 65535 ≤ 65535 ∧ (-32768 : Int).natAbs ≤ 32768) ∧ quantDemo.accepts .quantInt ∧
      ∀ k, k < 64 → 1 ≤ 16 ∧ 16 ≤ 65535 ∧ readEntry quantDemo.mem quantDemo.tbl.toNat k = prepareEntry 16 :=
  ⟨by decide, rfl, by decide +kernel⟩

/-- Divisors for `QTBL_PREP`, the first zero or not: the identity, a power of two, and both roundings. -/
def divisors (first : Int) : State := { demo with mem := memory (values 0x1000 2 (first :: 8 :: 3 :: 1000 :: List.replicate 60 1)) }

theorem witness_QtblPrepOutput : (divisors 1).accepts .qtblPrep ∧
    (∀ k, k < 64 → Memory.u16 (divisors 1).mem ((divisors 1).src0.toNat + 2 * k) ≠ 0) ∧
    (8 = 2 ^ 3 ∧ 8 < 2 ^ (3 + 1)) ∧ (2 ^ 1 ≤ 3 ∧ 3 < 2 ^ (1 + 1) ∧ 3 / 2 < 2 ^ (16 + 1) % 3) ∧
    (2 ^ 9 ≤ 1000 ∧ 1000 < 2 ^ (9 + 1) ∧ 2 ^ (16 + 9) % 1000 ≤ 1000 / 2) :=
  ⟨rfl, by decide +kernel, by decide, by decide, by decide⟩

theorem witness_QtblPrepZeroDivisor :
    (∃ k, k < 64 ∧ Memory.u16 (divisors 0).mem ((divisors 0).src0.toNat + 2 * k) = 0) ∧ (divisors 0).accepts .qtblPrep ∧
      ¬ { divisors 0 with dst0 := 1#32 }.accepts .qtblPrep :=
  ⟨⟨0, by decide +kernel⟩, rfl, by unfold State.accepts; decide⟩

/-- A block with the DC coefficient 100 alone and every multiplier 2, or 2.0. -/
def dcOnly : State := { demo with mem := memory (values 0x1000 2 [100] ++ values 0x7000 2 (List.replicate 64 2)) }

def dcOnlyFloat : State := { demo with mem := memory (values 0x1000 2 [100] ++ values 0x7000 4 (List.replicate 64 0x40000000)) }

theorem witness_DcOnlyIntegerLaw : (∀ k, 1 ≤ k → k < 64 → Memory.i16 dcOnly.mem (dcOnly.src0.toNat + 2 * k) = 0) ∧
    ∀ i ∈ [Instr.idctIslow, .idct2x2, .idct4x4, .idct6x6, .idct12x12, .idctIfast], dcOnly.accepts i := by
  refine ⟨fun k h1 h2 => ?_, by unfold State.accepts; decide⟩
  exact (by decide +kernel : ∀ k, k < 64 → 1 ≤ k → Memory.i16 dcOnly.mem (dcOnly.src0.toNat + 2 * k) = 0) k h2 h1

theorem witness_DcOnlyFloatLaw : dcOnlyFloat.accepts .idctFloat ∧ ∀ k, 1 ≤ k → k < 64 →
    Memory.i16 dcOnlyFloat.mem (dcOnlyFloat.src0.toNat + 2 * k) = 0 ∧
      isFinite (Memory.f32 dcOnlyFloat.mem (dcOnlyFloat.tbl.toNat + 4 * k)) := by
  refine ⟨rfl, fun k h1 h2 => ?_⟩
  exact (by unfold isFinite; decide +kernel : ∀ k, k < 64 → 1 ≤ k → Memory.i16 dcOnlyFloat.mem (dcOnlyFloat.src0.toNat + 2 * k) = 0 ∧
      isFinite (Memory.f32 dcOnlyFloat.mem (dcOnlyFloat.tbl.toNat + 4 * k))) k h2 h1

/-- `ForwardColourRange` and `ColourRoundTrip` at both ends of the samples. -/
theorem witness_ForwardColourRange : (0 : Int) ≤ 0 ∧ (0 : Int) ≤ 255 ∧ toYcc ⟨0, 0, 255⟩ = ⟨29, 255, 107⟩ := by decide

/-- Three rows of 9, for `ResampleConstantLaws`. -/
def nines : State :=
  { demo with
    mem := memory (values 0x0FF0 1 [9, 9] ++ values 0x1000 1 [9, 9] ++ values 0x1010 1 [9, 9]) }

theorem witness_ResampleConstantLaws :
    (∀ r j, r < 1 * nines.nrows.toNat → j < nines.width.toNat % 65536 → source nines r j = 9) ∧
      (∀ r j, r < 2 * nines.nrows.toNat → j < nines.width.toNat % 65536 → source nines r j = 9) ∧
      (∀ v j, v < 3 → j < nines.width.toNat % 65536 → context nines (0 + v) j = 9) ∧
      ∀ i ∈ [Instr.downH2v1, .downH2v2, .upH2v1Fancy, .upH1v2Fancy, .upH2v2Fancy], nines.accepts i :=
  ⟨below (by decide +kernel), below (by decide +kernel), below (by decide +kernel), by unfold State.accepts; decide⟩

/-! The four commands of `MergedEquivalence`, on one chroma row of one sample. -/

/-- The merged command's state. -/
def mergedS : State :=
  { demo with
    mem := memory (values 0x1000 1 [76, 29] ++ values 0x1010 1 [150, 1] ++ values 0x2000 1 [85] ++ values 0x3000 1 [255]) }

/-- The state that upsamples `Cb`. -/
def mergedB : State := { mergedS with src0 := 0x2000#32, width := 1#32 }

/-- The state that upsamples `Cr`. -/
def mergedC : State := { mergedS with src0 := 0x3000#32, width := 1#32 }

/-- The state that converts, with `k` rows. -/
def mergedY (k : Nat) : State :=
  { mergedS with
    nrows := BitVec.ofNat 16 k
    mem := memory (values 0x1000 1 [76, 29] ++ values 0x1010 1 [150, 1] ++ values 0x2000 1 [85, 85] ++ values 0x2010 1 [85, 85] ++
      values 0x3000 1 [255, 255] ++ values 0x3010 1 [255, 255]) }

/-- The state that converts row 1 alone. -/
def mergedBand : State := { mergedY 1 with src0 := 0x1010#32, src1 := 0x2010#32, src2 := 0x3010#32 }

/-- Where the planes of `y` are rows `q` on of what the other three states read and wrote. -/
def BandOf (s b c y : State) (box : Instr) (q : Nat) : Prop :=
  (∀ r j, r < y.nrows.toNat → j < 2 → source y r j = source s (q + r) j) ∧
    (∀ r j, r < y.nrows.toNat → j < 2 → Memory.s8 y.mem (y.src1.toNat + r * (y.sstride.toNat / 65536) + j) =
      target b (after box b).mem (q + r) j) ∧
    ∀ r j, r < y.nrows.toNat → j < 2 → Memory.s8 y.mem (y.src2.toNat + r * (y.sstride.toNat / 65536) + j) =
      target c (after box c).mem (q + r) j

theorem witness_MergedEquivalence_chroma :
    mergedB.accepts .upH2v1Box ∧ mergedC.accepts .upH2v1Box ∧ mergedB.accepts .upH2v2Box ∧ mergedC.accepts .upH2v2Box ∧
      source mergedB 0 0 = Memory.s8 mergedS.mem mergedS.src1.toNat ∧ source mergedC 0 0 = Memory.s8 mergedS.mem mergedS.src2.toNat :=
  ⟨rfl, rfl, rfl, rfl, by decide +kernel, by decide +kernel⟩

theorem witness_MergedEquivalence_one :
    mergedS.accepts (.mergedH2v1 .bgrx) ∧ (mergedY 1).accepts (.yccRgb .bgrx) ∧
      0 + (mergedY 1).nrows.toNat ≤ 1 * mergedS.nrows.toNat ∧ BandOf mergedS mergedB mergedC (mergedY 1) .upH2v1Box 0 :=
  ⟨rfl, rfl, by decide, below (by decide +kernel), below (by decide +kernel), below (by decide +kernel)⟩

theorem witness_MergedEquivalence_two :
    mergedS.accepts (.mergedH2v2 .rgb) ∧ (mergedY 2).accepts (.yccRgb .rgb) ∧
      0 + (mergedY 2).nrows.toNat ≤ 2 * mergedS.nrows.toNat ∧ BandOf mergedS mergedB mergedC (mergedY 2) .upH2v2Box 0 :=
  ⟨rfl, rfl, by decide, below (by decide +kernel), below (by decide +kernel), below (by decide +kernel)⟩

theorem witness_MergedEquivalence_band :
    mergedBand.accepts (.yccRgb .rgb) ∧ 1 + mergedBand.nrows.toNat ≤ 2 * mergedS.nrows.toNat ∧
      BandOf mergedS mergedB mergedC mergedBand .upH2v2Box 1 :=
  ⟨rfl, by decide, below (by decide +kernel), below (by decide +kernel), below (by decide +kernel)⟩

/-- The clauses about integers and conversions: both ends of the 16-bit integers, and the values of 95_test_vectors.md 4.3 that are not
finite. -/
theorem witness_Conversions :
    (floatOfInt (-32768) = 0xC7000000#32 ∧ floatOfInt 32767 = 0x46FFFE00#32 ∧ floatOfInt 0 = 0#32) ∧
      Converts 0x46800100#32 16384 ∧ Converts 0x7F800000#32 2147483647 ∧ Converts 0xFF800000#32 (-2147483648) ∧
      Converts 0x7FC00000#32 0 ∧ isFinite 0x46800100#32 ∧ isNan 0x7FC00000#32 := by
  unfold Converts isFinite isNan; decide +kernel

/-- The operands of the clauses about binary32 that are not finite, or zero: NaN of either sign, both infinities and both zeros. -/
theorem witness_FloatSpecial :
    isNan 0x7FC00000#32 ∧ isNan 0xFF800001#32 ∧ isInfinite 0x7F800000#32 ∧ isInfinite 0xFF800000#32 ∧
      isFinite 0x00000001#32 ∧ isFinite 0x7F7FFFFF#32 ∧ units 0x00000001#32 ≠ 0 ∧ units 0x00000000#32 = 0 ∧ units 0x80000000#32 = 0 := by
  unfold isNan isInfinite isFinite; decide +kernel

/-- Finite pairs for the two statements about binary32: a sum and a product that round, an exact 0 of each kind, a quotient by 0. -/
theorem witness_Float :
    isFinite 0x3F800001#32 ∧ isFinite 0x33800000#32 ∧ isFinite 0x80000000#32 ∧
      units 0x3F800001#32 + units 0x33800000#32 ≠ 0 ∧ units 0x80000000#32 + units 0x80000000#32 = 0 ∧
      units 0x3F800001#32 * units 0x33800000#32 ≠ 0 ∧ units 0x3F800001#32 * units 0x80000000#32 = 0 ∧
      units 0x3F800001#32 ≠ 0 ∧ units 0x80000000#32 = 0 := by
  unfold isFinite; decide +kernel

end Sys2Proof.Tests
end

section
/-! PROOF. What a command leaves alone: every byte outside its output regions and every register but `STATUS` (O20). -/

namespace Sys2Proof.Proofs

open Machine Machine.Memory

/-- A command ends with an error and its memory as it was, or completes with its output bytes written (10_state.md R46,
60_exceptions.md R402). -/
theorem exec_cases (i : Instr) (s : State) :
    (∃ e, exec i s = .next (s.fail e)) ∨
    ((plan s i).check s.cfg.dmemSize = none ∧
      exec i s = .next { s.complete with mem := writeCells s.mem (outputCells i s) }) := by
  rw [exec_eq_runCommand]
  rcases runCommand_cases (plan s i) (dataCheck i) (outputCells i) s with ⟨e, -, h⟩ | ⟨-, -, h⟩ | ⟨hc, -, h⟩
  · exact .inl ⟨e, h⟩
  · exact .inl ⟨.data, h⟩
  · exact .inr ⟨hc, h⟩

/-- A byte outside the output regions is read as before once the output bytes are written. -/
theorem read_outputCells_other (i : Instr) (s : State) {a : Nat} (h : ∀ r ∈ (plan s i).outputs, ¬ r.Holds a) :
    read (writeCells s.mem (outputCells i s)) a = read s.mem a := by
  refine read_writeCells_other _ _ fun c hc hca => ?_
  obtain ⟨r, hr, hh⟩ := outputCells_hold i s hc
  exact h r hr (hca ▸ hh)

/-- Settles O20: the bytes written are the output bytes, and each lies in an output region. -/
theorem commandFrame : Obligations.CommandFrame := by
  unfold Obligations.CommandFrame
  intro s i
  rcases exec_cases i s with ⟨e, h⟩ | ⟨-, h⟩
  · exact ⟨_, h, rfl, fun _ _ => rfl⟩
  · refine ⟨_, h, rfl, fun a ha => read_outputCells_other i s ?_⟩
    rintro r hr ⟨row, k, hrow, hk, he⟩
    refine ha r hr row k hrow hk ?_
    rw [he, Int.natCast_add, Int.natCast_mul, Int.add_assoc]

end Sys2Proof.Proofs
end

section
/-! PROOF. What a command depends on: its operands, the parameters and the bytes of its input regions. Its output cells fill its
output regions, so nothing of the memory before is left there (O21). -/

namespace Sys2Proof.Proofs

open Machine Machine.Memory

/-- The plan of a command reads nothing of a state but its operands. -/
theorem plan_sameOperands {s t : State} (h : s.sameOperands t) (i : Instr) : plan t i = plan s i := by
  cases s; cases t
  obtain ⟨rfl, rfl, rfl, rfl, rfl, rfl, rfl, rfl, rfl, rfl, rfl, rfl, rfl⟩ := h
  cases i <;> rfl

/-- The data check of a command reads nothing of a state but its operands and its memory. -/
theorem dataCheck_sameOperands {s t : State} (h : s.sameOperands t) (i : Instr) :
    dataCheck i t = dataCheck i (s.withMem t.mem) := by
  cases s; cases t
  obtain ⟨rfl, rfl, rfl, rfl, rfl, rfl, rfl, rfl, rfl, rfl, rfl, rfl, rfl⟩ := h
  cases i <;> rfl

/-- The output bytes of a command read nothing of a state but its operands and its memory. -/
theorem outputCells_sameOperands {s t : State} (h : s.sameOperands t) (i : Instr) :
    outputCells i t = outputCells i (s.withMem t.mem) := by
  cases s; cases t
  obtain ⟨rfl, rfl, rfl, rfl, rfl, rfl, rfl, rfl, rfl, rfl, rfl, rfl, rfl⟩ := h
  cases i <;> rfl

/-- Some cell of the list writes this address. -/
def Writes (cells : List Host.Cell) (a : Nat) : Prop := ∃ c ∈ cells, c.1 = a

theorem cellsLE_writes {x n a : Nat} {v : Int} (h1 : x ≤ a) (h2 : a < x + n) : Writes (cellsLE x v n) a :=
  ⟨_, mem_cellsLE_iff.mpr ⟨a - x, by omega, rfl⟩, by simp only; omega⟩

theorem gridCells_writes {n w a : Nat} {f : Nat → Nat → List Host.Cell} {r j : Nat} (hr : r < n) (hj : j < w)
    (h : Writes (f r j) a) : Writes (gridCells n w f) a := by
  obtain ⟨c, hc, hca⟩ := h
  exact ⟨c, mem_gridCells.mpr ⟨r, j, hr, hj, hc⟩, hca⟩

theorem append_writes_left {l₁ l₂ : List Host.Cell} {a : Nat} (h : Writes l₁ a) : Writes (l₁ ++ l₂) a := by
  obtain ⟨c, hc, hca⟩ := h
  exact ⟨c, List.mem_append_left _ hc, hca⟩

theorem append_writes_right {l₁ l₂ : List Host.Cell} {a : Nat} (h : Writes l₂ a) : Writes (l₁ ++ l₂) a := by
  obtain ⟨c, hc, hca⟩ := h
  exact ⟨c, List.mem_append_right _ hc, hca⟩

theorem flatRegion_address {base : Word} {bytes a : Nat} (h : (flatRegion base bytes).Holds a) :
    ∃ k, k < bytes ∧ a = base.toNat + k := by
  obtain ⟨row, k, hrow, hk, ha⟩ := h
  simp only [flatRegion, Nat.mul_zero, Nat.zero_add] at hrow hk ha
  exact ⟨k, hk, by omega⟩

theorem rowRegion_address {base : Word} {n stride w a : Nat} (h : (rowRegion base n stride w).Holds a) :
    ∃ r k, r < n ∧ k < w ∧ a = base.toNat + r * stride + k := by
  obtain ⟨r, k, hr, hk, ha⟩ := h
  simp only [rowRegion] at hr hk ha
  exact ⟨r, k, hr, hk, by omega⟩

theorem sampleCells_writes {base : Word} {n stride w a : Nat} {value : Nat → Nat → Int}
    (h : (rowRegion base n stride w).Holds a) : Writes (sampleCells base.toNat stride n w value) a := by
  obtain ⟨r, k, hr, hk, rfl⟩ := rowRegion_address h
  exact gridCells_writes hr hk ⟨_, List.mem_singleton.mpr rfl, rfl⟩

theorem fdctIntCells_writes {s : State} {b : V8 (V8 Int)} {a : Nat} (h : (flatRegion s.dst0 128).Holds a) :
    Writes (fdctIntCells s b) a := by
  obtain ⟨k, hk, rfl⟩ := flatRegion_address h
  exact gridCells_writes (r := k / 16) (j := k / 2 % 8) (by omega) (by omega) (cellsLE_writes (by omega) (by omega))

theorem fdctFloatCells_writes {s : State} {b : V8 (V8 F32)} {a : Nat} (h : (flatRegion s.dst0 256).Holds a) :
    Writes (fdctFloatCells s b) a := by
  obtain ⟨k, hk, rfl⟩ := flatRegion_address h
  exact gridCells_writes (r := k / 32) (j := k / 4 % 8) (by omega) (by omega) (cellsLE_writes (by omega) (by omega))

theorem quantIntCells_writes {s : State} {a : Nat} (h : (flatRegion s.dst0 128).Holds a) : Writes (quantIntCells s) a := by
  obtain ⟨k, hk, rfl⟩ := flatRegion_address h
  exact gridCells_writes (r := k / 2) (by omega) Nat.one_pos (cellsLE_writes (by omega) (by omega))

theorem quantFloatCells_writes {s : State} {a : Nat} (h : (flatRegion s.dst0 128).Holds a) :
    Writes (quantFloatCells s) a := by
  obtain ⟨k, hk, rfl⟩ := flatRegion_address h
  exact gridCells_writes (r := k / 2) (by omega) Nat.one_pos (cellsLE_writes (by omega) (by omega))

/-- The three arrays of a table fill its 384 bytes (42_quant.md R180). -/
theorem qtblPrepCells_writes {s : State} {a : Nat} (h : (flatRegion s.dst0 384).Holds a) : Writes (qtblPrepCells s) a := by
  obtain ⟨k, hk, rfl⟩ := flatRegion_address h
  refine gridCells_writes (r := k % 128 / 2) (by omega) Nat.one_pos ?_
  by_cases h1 : k < 128
  · exact append_writes_left (append_writes_left (cellsLE_writes (by omega) (by omega)))
  · by_cases h2 : k < 256
    · exact append_writes_left (append_writes_right (cellsLE_writes (by omega) (by omega)))
    · exact append_writes_right (cellsLE_writes (by omega) (by omega))

/-- `PUTPIX` writes every byte of its pixel, the filler included (44_color.md R259). -/
theorem putPixel_writes {filler : Byte} {l : Layout} {a k : Nat} {p : Triple} (hk : k < pixelBytes l) :
    Writes (putPixel filler l a p) (a + k) := by
  have hoff : k = redOffset l ∨ k = greenOffset l ∨ k = blueOffset l ∨ fillerOffset l = some k := by
    cases l <;> simp only [pixelBytes, redOffset, greenOffset, blueOffset, fillerOffset, Option.some.injEq] at hk ⊢ <;> omega
  unfold putPixel
  rcases hoff with rfl | rfl | rfl | hf
  · exact append_writes_left ⟨_, List.mem_cons_self, rfl⟩
  · exact append_writes_left ⟨_, List.mem_cons_of_mem _ List.mem_cons_self, rfl⟩
  · exact append_writes_left ⟨_, List.mem_cons_of_mem _ (List.mem_cons_of_mem _ List.mem_cons_self), rfl⟩
  · rw [hf]
    exact append_writes_right ⟨_, List.mem_singleton.mpr rfl, rfl⟩

theorem pixelRows_writes {s : State} {l : Layout} {n w a : Nat} {p : Nat → Nat → Triple}
    (h : (rowRegion s.dst0 n s.ds0 (w * pixelBytes l)).Holds a) :
    Writes (gridCells n w fun r j => putPixel s.cfg.filler l (pixelAddress s l r j) (p r j)) a := by
  obtain ⟨r, k, hr, hk, rfl⟩ := rowRegion_address h
  have hp : 0 < pixelBytes l := by cases l <;> decide
  have ha : s.dst0.toNat + r * s.ds0 + k = pixelAddress s l r (k / pixelBytes l) + k % pixelBytes l := by
    rw [pixelAddress, Nat.add_assoc _ (_ * _) (_ % _), Nat.div_add_mod']
  rw [ha]
  exact gridCells_writes hr (Nat.div_lt_of_lt_mul (Nat.mul_comm w _ ▸ hk)) (putPixel_writes (Nat.mod_lt _ hp))

theorem yccRgb565Cells_writes {s : State} {a : Nat} (h : (rowRegion s.dst0 s.rowCount s.ds0 (2 * s.w0)).Holds a) :
    Writes (yccRgb565Cells s) a := by
  obtain ⟨r, k, hr, hk, rfl⟩ := rowRegion_address h
  exact gridCells_writes (j := k / 2) hr (by omega) (cellsLE_writes (by omega) (by omega))

/-- The three planes of `RGB_YCC` (44_color.md R253). -/
theorem rgbYccCells_writes {s : State} {l : Layout} {a : Nat}
    (h : (rowRegion s.dst0 s.rowCount s.ds0 s.w0).Holds a ∨ (rowRegion s.dst1 s.rowCount s.ds1 s.w0).Holds a ∨
      (rowRegion s.dst2 s.rowCount s.ds1 s.w0).Holds a) : Writes (rgbYccCells l s) a := by
  rcases h with h | h | h <;> obtain ⟨r, k, hr, hk, rfl⟩ := rowRegion_address h
  · exact gridCells_writes hr hk ⟨_, List.mem_cons_self, rfl⟩
  · exact gridCells_writes hr hk ⟨_, List.mem_cons_of_mem _ List.mem_cons_self, rfl⟩
  · exact gridCells_writes hr hk ⟨_, List.mem_cons_of_mem _ (List.mem_cons_of_mem _ List.mem_cons_self), rfl⟩

/-- Every byte of the output regions of a command is written (30_encoding.md R113), the converse of `outputCells_hold`. -/
theorem outputCells_writes (i : Instr) (s : State) {r : Region} (hr : r ∈ (plan s i).outputs) {a : Nat} (ha : r.Holds a) :
    Writes (outputCells i s) a := by
  cases i with
  | nop => exact absurd hr List.not_mem_nil
  | rgbYcc l =>
    simp only [plan, planRgbYcc, List.mem_cons, List.not_mem_nil, or_false] at hr
    rcases hr with rfl | rfl | rfl
    · exact rgbYccCells_writes (.inl ha)
    · exact rgbYccCells_writes (.inr (.inl ha))
    · exact rgbYccCells_writes (.inr (.inr ha))
  | fdctIslow | fdctIfast => cases List.mem_singleton.mp hr; exact fdctIntCells_writes ha
  | fdctFloat => cases List.mem_singleton.mp hr; exact fdctFloatCells_writes ha
  | quantInt => cases List.mem_singleton.mp hr; exact quantIntCells_writes ha
  | quantFloat => cases List.mem_singleton.mp hr; exact quantFloatCells_writes ha
  | qtblPrep => cases List.mem_singleton.mp hr; exact qtblPrepCells_writes ha
  | yccRgb565 => cases List.mem_singleton.mp hr; exact yccRgb565Cells_writes ha
  | upH2v1Box => cases List.mem_singleton.mp hr; exact sampleCells_writes (by simpa only [Nat.one_mul] using ha)
  | idctIslow | idctIfast | idctFloat | idct2x2 | idct4x4 | idct6x6 | idct12x12 | rgbGray | downH2v1 | downH2v2
  | upH2v2Box | upH2v1Fancy | upH1v2Fancy | upH2v2Fancy => cases List.mem_singleton.mp hr; exact sampleCells_writes ha
  | mergedH2v1 => cases List.mem_singleton.mp hr; exact pixelRows_writes (by simpa only [Nat.one_mul] using ha)
  | yccRgb | mergedH2v2 => cases List.mem_singleton.mp hr; exact pixelRows_writes ha

/-- Where a cell writes an address, what the memory held before does not matter. -/
theorem read_writeCells_of_writes {cells : List Host.Cell} {a : Nat} (h : Writes cells a) (m m' : Memory) :
    read (writeCells m cells) a = read (writeCells m' cells) a := by
  induction cells generalizing m m' with
  | nil => obtain ⟨c, hc, -⟩ := h; exact absurd hc List.not_mem_nil
  | cons c cs ih =>
    by_cases hl : Writes cs a
    · exact ih hl _ _
    · have hother : ∀ d ∈ cs, d.1 ≠ a := fun d hd hda => hl ⟨d, hd, hda⟩
      obtain ⟨d, hd, rfl⟩ := h
      rcases List.mem_cons.mp hd with rfl | hd
      · simp only [writeCells_cons, read_writeCells_other cs _ hother, read_write_same]
      · exact absurd rfl (hother d hd)

theorem code_ne_zero (e : CmdError) : e.code ≠ 0#8 := by cases e <;> decide

/-- Settles O21: both runs fail with one code, or both write the same cells, and those fill the output regions. -/
theorem commandPurity : Obligations.CommandPurity := by
  unfold Obligations.CommandPurity
  intro s t i hops hin
  have hcfg : t.cfg = s.cfg := by obtain ⟨h, -⟩ := hops; exact h.symm
  have hdata : dataCheck i t = dataCheck i s := by rw [dataCheck_sameOperands hops, dataCheck_congr i hin]
  simp only [exec_eq_runCommand, plan_sameOperands hops]
  rcases runCommand_cases (plan s i) (dataCheck i) (outputCells i) s with ⟨e, hc, hs⟩ | ⟨hc, hd, hs⟩ | ⟨hc, hd, hs⟩
  · rw [hs, runCommand_of_error _ _ (hcfg ▸ hc)]
    exact ⟨_, _, rfl, rfl, rfl, fun h0 => absurd h0 (code_ne_zero e)⟩
  · have ht : runCommand (plan s i) (dataCheck i) (outputCells i) t = .next (t.fail .data) := by
      simp [runCommand, hcfg, hc, hdata, hd, State.takeCmdError]
    rw [hs, ht]
    exact ⟨_, _, rfl, rfl, rfl, fun h0 => absurd h0 (code_ne_zero .data)⟩
  · rw [hs, runCommand_of_ok _ (hcfg ▸ hc) (hdata ▸ hd)]
    refine ⟨_, _, rfl, rfl, rfl, fun _ r hr a ha => ?_⟩
    have hcells : outputCells i t = outputCells i s := by
      rw [outputCells_sameOperands hops, outputCells_congr i hc hin]
    simp only [hcells]
    exact read_writeCells_of_writes (outputCells_writes i s hr ha) _ _

end Sys2Proof.Proofs
end

section
/-! PROOF. The invariant of the machine is kept by every operation, so by every step (O22). -/

namespace Sys2Proof.Proofs

open Machine Machine.Memory

theorem statusOk_iff {s : State} : s.statusOk = true ↔
    (s.busy = true → s.done = false ∧ s.err = false ∧ s.errCode = 0#8) ∧ (s.err = true → s.errCode ≠ 0#8) ∧
      s.errCode.toNat ≤ 7 := by
  cases hb : s.busy <;> cases he : s.err <;> simp [State.statusOk, hb, he, Nat.ble_eq]

/-- A state whose `STATUS` shows no pending command and no error satisfies the invariant where its memory does. -/
theorem inv_of_quiet {s : State} (hcfg : s.cfg.wf = true) (hwf : wf s.mem = true)
    (hin : within s.cfg.dmemSize s.mem = true) (hbusy : s.busy = false) (herr : s.err = false) (hcode : s.errCode = 0#8) :
    s.Inv :=
  ⟨hcfg, hwf, hin, statusOk_iff.mpr (by simp [hbusy, herr, hcode])⟩

theorem inv_fail {s : State} (h : s.Inv) (e : CmdError) : (s.fail e).Inv := by
  obtain ⟨hcfg, hwf, hin, -⟩ := h
  exact ⟨hcfg, hwf, hin, by cases e <;> rfl⟩

theorem inv_exec {s t : State} (h : s.Inv) {i : Instr} (he : exec i s = .next t) : t.Inv := by
  rcases exec_cases i s with ⟨e, hx⟩ | ⟨hc, hx⟩ <;> cases hx.symm.trans he
  · exact inv_fail h e
  · obtain ⟨hcfg, hwf, hin, -⟩ := h
    exact inv_of_quiet hcfg (wf_writeCells _ hwf) (within_writeCells _ hin fun c hm => outputCells_within i s hc hm) rfl rfl rfl

theorem inv_engineTurn {s t : State} (h : s.Inv) (he : engineTurn s = .next t) : t.Inv := by
  rcases engineTurn_cases s with ⟨-, hx⟩ | ⟨-, i, -, hx⟩ | ⟨-, e, -, hx⟩
  · cases hx.symm.trans he; exact h
  · exact inv_exec h (hx.symm.trans he)
  · cases hx.symm.trans he; exact inv_fail h _

theorem inv_softReset {s : State} (h : s.Inv) : s.softReset.Inv := by
  obtain ⟨hcfg, hwf, hin, -⟩ := h
  rcases softReset_cases s with ⟨-, hx⟩ | ⟨p, -, hx⟩ <;> rw [hx]
  · exact inv_of_quiet hcfg hwf hin rfl rfl rfl
  · exact inv_of_quiet hcfg (wf_fillSpans _ _ _ hwf) (within_fillSpans _ _ _ hin) rfl rfl rfl

theorem inv_powerOn {s : State} (h : s.Inv) : s.powerOn.Inv := by
  obtain ⟨hcfg, -⟩ := h
  exact inv_of_quiet hcfg (wf_allFree _ _) (within_allFree _ _) rfl rfl rfl

theorem inv_begin {s : State} (h : s.Inv) : s.begin.Inv := by
  obtain ⟨hcfg, hwf, hin, -⟩ := h
  exact ⟨hcfg, hwf, hin, rfl⟩

theorem inv_writeCtrl {s : State} (h : s.Inv) (v : Word) : (s.writeCtrl v).Inv := by
  have hirq : State.Inv { s with irqEn := v.getLsbD 1 } := h
  rcases writeCtrl_cases s v with ⟨-, hx⟩ | ⟨-, -, -, hx⟩ | ⟨-, -, hx⟩ <;> rw [hx]
  · exact inv_softReset h
  · exact inv_begin hirq
  · exact hirq

/-- An acknowledgement only clears bits, so a legal `STATUS` stays legal (10_state.md R39). -/
theorem inv_acknowledge {s : State} (h : s.Inv) (v : Word) : (s.acknowledge v).Inv := by
  obtain ⟨hcfg, hwf, hin, hst⟩ := h
  obtain ⟨hbusy, herr, hcode⟩ := statusOk_iff.mp hst
  refine ⟨hcfg, hwf, hin, statusOk_iff.mpr ⟨fun hb => ?_, fun he => ?_, hcode⟩⟩
  · obtain ⟨hd, he, hc⟩ := hbusy hb
    simp [hd, he, hc]
  · simp only [State.acknowledge_err, Bool.and_eq_true] at he
    exact herr he.1

theorem inv_writeOperand {s : State} (h : s.Inv) (offset : BitVec 8) (v : Word) : (s.writeOperand offset v).Inv := by
  unfold State.writeOperand
  split <;> exact h

theorem inv_writeReg {s : State} (h : s.Inv) (offset : BitVec 8) (v : Word) : (s.writeReg offset v).Inv := by
  rcases writeReg_cases s offset v with ⟨-, hx⟩ | ⟨-, hx⟩ | ⟨-, -, -, hx⟩ | ⟨-, -, -, hx⟩ <;> rw [hx]
  · exact inv_writeCtrl h v
  · exact inv_acknowledge h v
  · exact h
  · exact inv_writeOperand h offset v

/-- The bytes of an allowed host write lie inside the memory (20_memory.md R80). -/
theorem memWrite_inside {s : State} {addr : Word} {w : Width} {v : Word} (h : s.accessAllowed (.memWrite addr w v) = true)
    {x : Int} {c : Host.Cell} (hc : c ∈ cellsLE addr.toNat x w.bytes) : c.1 < s.cfg.dmemSize := by
  simp only [State.accessAllowed, HostAccess.wellFormed, inMemory, Bool.and_eq_true, Nat.ble_eq] at h
  have := mem_cellsLE hc
  omega

theorem inv_hostAccess {s t : State} (h : s.Inv) {a : HostAccess} (ha : s.hostAccess a = .next t) : t.Inv := by
  rcases hostAccess_next_cases ha with ⟨_, _, -, rfl⟩ | ⟨offset, _, v, -, rfl⟩ | ⟨_, _, -, -, -, rfl⟩ |
    ⟨addr, w, v, rfl, hok, -, rfl⟩
  · exact h
  · exact inv_writeReg h offset v
  · exact h
  · obtain ⟨hcfg, hwf, hin, hst⟩ := h
    exact ⟨hcfg, wf_writeCells _ hwf, within_writeCells _ hin fun c hc => memWrite_inside hok hc, hst⟩

theorem inv_takeTurn {s t : State} (h : s.Inv) (turn : Turn) (ht : takeTurn turn s = .next t) : t.Inv := by
  cases turn with
  | engine => exact inv_engineTurn h ht
  | host a => exact inv_hostAccess h ht
  | powerOn => cases ht; exact inv_powerOn h

/-- Settles O22, by the kind of turn; taking a turn off the agenda leaves the invariant alone. -/
theorem invariantKept : Obligations.InvariantKept := by
  unfold Obligations.InvariantKept
  intro s t h hstep
  refine inv_takeTurn ?_ s.nextTurn.1 hstep
  rcases nextTurn_cases s with ⟨-, hx⟩ | ⟨_, _, -, hx⟩ <;> rw [hx] <;> exact h

end Sys2Proof.Proofs
end

section
/-! PROOF. The values of binary32 encodings, in units of `2^-149`: how they order, and what it is to be the nearest one. -/

namespace Sys2Proof.Proofs

open Machine Claims

/-- The value of an encoding without its sign bit, in units of `2^-149`, carried on past the largest finite one as if the exponent
field were unbounded. -/
def magnitudeUnits (b : Nat) : Nat :=
  if b / 2 ^ 23 = 0 then b % 2 ^ 23 else (b % 2 ^ 23 + 2 ^ 23) * 2 ^ (b / 2 ^ 23 - 1)

/-- The encoding of `d * 2^e`, `d` of up to 24 bits and normal where `e` is not 0, is `e * 2^23 + d`. -/
theorem magnitudeUnits_digits {e d : Nat} (hd : d ≤ 2 ^ 24) (hn : e = 0 ∨ 2 ^ 23 ≤ d) :
    magnitudeUnits (e * 2 ^ 23 + d) = d * 2 ^ e := by
  unfold magnitudeUnits
  rcases Nat.lt_or_ge d (2 ^ 23) with h1 | h1
  · obtain rfl : e = 0 := by omega
    rw [if_pos (by omega)]
    omega
  · rw [if_neg (by omega)]
    rcases Nat.lt_or_eq_of_le hd with h2 | rfl
    · rw [show (e * 2 ^ 23 + d) % 2 ^ 23 + 2 ^ 23 = d by omega, show (e * 2 ^ 23 + d) / 2 ^ 23 - 1 = e by omega]
    · rw [show (e * 2 ^ 23 + 2 ^ 24) % 2 ^ 23 + 2 ^ 23 = 2 ^ 23 by omega,
        show (e * 2 ^ 23 + 2 ^ 24) / 2 ^ 23 - 1 = e + 1 by omega]
      omega

theorem exists_digits (b : Nat) : ∃ e d, b = e * 2 ^ 23 + d ∧ d < 2 ^ 24 ∧ (e = 0 ∨ 2 ^ 23 ≤ d) :=
  ⟨b / 2 ^ 23 - 1, b - (b / 2 ^ 23 - 1) * 2 ^ 23, by omega, by omega, by omega⟩

theorem magnitudeUnits_lt_succ (b : Nat) : magnitudeUnits b < magnitudeUnits (b + 1) := by
  obtain ⟨e, d, rfl, hd, hn⟩ := exists_digits b
  rw [Nat.add_assoc, magnitudeUnits_digits (by omega) hn, magnitudeUnits_digits (by omega) (by omega)]
  exact Nat.mul_lt_mul_of_pos_right (Nat.lt_succ_self d) (Nat.two_pow_pos e)

theorem magnitudeUnits_lt {b c : Nat} (h : b < c) : magnitudeUnits b < magnitudeUnits c := by
  induction h with
  | refl => exact magnitudeUnits_lt_succ b
  | step _ ih => exact Nat.lt_trans ih (magnitudeUnits_lt_succ _)

theorem magnitudeUnits_le {b c : Nat} (h : b ≤ c) : magnitudeUnits b ≤ magnitudeUnits c := by
  rcases Nat.lt_or_eq_of_le h with h | rfl
  · exact Nat.le_of_lt (magnitudeUnits_lt h)
  · exact Nat.le_refl _

@[simp] theorem magnitudeUnits_zero : magnitudeUnits 0 = 0 := rfl

/-- The encoding has its sign bit set. -/
def isNegative (x : F32) : Bool := decide (2 ^ 31 ≤ x.toNat)

theorem exponentField_eq (x : F32) : exponentField x = x.toNat % 2 ^ 31 / 2 ^ 23 := by
  unfold exponentField; omega

theorem isNegative_iff {x : F32} : isNegative x = true ↔ 2 ^ 31 ≤ x.toNat := decide_eq_true_iff

@[simp] theorem signed_true (m : Nat) : signed true m = -(m : Int) := rfl

@[simp] theorem signed_false (m : Nat) : signed false m = (m : Int) := rfl

theorem magnitudeUnits_fields (x : F32) : ((magnitudeUnits (x.toNat % 2 ^ 31) : Nat) : Int) =
    if exponentField x = 0 then ((x.toNat % 2 ^ 23 : Nat) : Int)
    else ((x.toNat % 2 ^ 23 + 2 ^ 23 : Nat) : Int) * 2 ^ (exponentField x - 1) := by
  have hm : x.toNat % 2 ^ 31 % 2 ^ 23 = x.toNat % 2 ^ 23 := by omega
  rw [magnitudeUnits, ← exponentField_eq, hm]
  by_cases h : exponentField x = 0
  · rw [if_pos h, if_pos h]
  · rw [if_neg h, if_neg h, Int.natCast_mul, Int.natCast_pow]
    rfl

theorem units_eq_signed (x : F32) : units x = signed (isNegative x) (magnitudeUnits (x.toNat % 2 ^ 31)) := by
  unfold units
  rw [← magnitudeUnits_fields]
  by_cases h : 2 ^ 31 ≤ x.toNat
  · rw [isNegative_iff.mpr h]
    exact if_pos h
  · rw [Bool.eq_false_iff.mpr (mt isNegative_iff.mp h)]
    exact if_neg h

/-- `b` encodes the value nearest to `num / den` among the magnitudes: `num / den` is at most halfway to either neighbour, and
halfway only where `b` is even. -/
structure IsNearest (b num den : Nat) : Prop where
  upper : 2 * num ≤ (magnitudeUnits b + magnitudeUnits (b + 1)) * den
  upper_tie : 2 * num = (magnitudeUnits b + magnitudeUnits (b + 1)) * den → b % 2 = 0
  lower : ∀ c, c + 1 = b → (magnitudeUnits c + magnitudeUnits b) * den ≤ 2 * num
  lower_tie : ∀ c, c + 1 = b → (magnitudeUnits c + magnitudeUnits b) * den = 2 * num → b % 2 = 0

/-- `d` digits at the exponent `e` are `num / den` rounded to nearest, ties to even, and `num / den` has 24 bits there unless
the exponent is the least. -/
structure IsRounded (e d num den : Nat) : Prop where
  digits_le : d ≤ 2 ^ 24
  normal : e = 0 ∨ 2 ^ 23 * (2 ^ e * den) ≤ num
  upper : 2 * num ≤ 2 * (d * (2 ^ e * den)) + 2 ^ e * den
  upper_tie : 2 * num = 2 * (d * (2 ^ e * den)) + 2 ^ e * den → d % 2 = 0
  lower : 2 * (d * (2 ^ e * den)) ≤ 2 * num + 2 ^ e * den
  lower_tie : 2 * (d * (2 ^ e * den)) = 2 * num + 2 ^ e * den → d % 2 = 0

theorem IsRounded.digits_ge {e d num den : Nat} (hden : 0 < den) (h : IsRounded e d num den) : e = 0 ∨ 2 ^ 23 ≤ d := by
  refine h.normal.imp_right fun hN => ?_
  have hU : 0 < 2 ^ e * den := Nat.mul_pos (Nat.two_pow_pos e) hden
  refine Nat.le_of_not_lt fun hlt => ?_
  have : (d + 1) * (2 ^ e * den) ≤ 2 ^ 23 * (2 ^ e * den) := Nat.mul_le_mul_right _ (by omega)
  rw [Nat.add_mul, Nat.one_mul] at this
  have := h.upper
  omega

/-- The next encoding is at least one unit of the last digit away. -/
theorem magnitudeUnits_succ {e d : Nat} (hd : d ≤ 2 ^ 24) (hn : e = 0 ∨ 2 ^ 23 ≤ d) :
    d * 2 ^ e + 2 ^ e ≤ magnitudeUnits (e * 2 ^ 23 + d + 1) := by
  rcases Nat.lt_or_eq_of_le hd with h | rfl
  · refine Nat.le_of_eq ?_
    rw [Nat.add_assoc, magnitudeUnits_digits (by omega) (by omega), Nat.add_mul, Nat.one_mul]
  · rw [show e * 2 ^ 23 + 2 ^ 24 + 1 = (e + 1) * 2 ^ 23 + (2 ^ 23 + 1) by omega,
      magnitudeUnits_digits (by omega) (by omega)]
    omega

theorem IsRounded.isNearest {e d num den : Nat} (hden : 0 < den) (h : IsRounded e d num den) :
    IsNearest (e * 2 ^ 23 + d) num den := by
  have hn := h.digits_ge hden
  obtain ⟨hd, hnormal, hu, hut, hl, hlt⟩ := h
  have hb : magnitudeUnits (e * 2 ^ 23 + d) * den = d * (2 ^ e * den) := by
    rw [magnitudeUnits_digits hd hn, Nat.mul_assoc]
  have habove : d * (2 ^ e * den) + 2 ^ e * den ≤ magnitudeUnits (e * 2 ^ 23 + d + 1) * den := by
    rw [← Nat.mul_assoc, ← Nat.add_mul]
    exact Nat.mul_le_mul_right den (magnitudeUnits_succ hd hn)
  have hbelow : ∀ c, c + 1 = e * 2 ^ 23 + d → (e ≠ 0 ∧ d = 2 ^ 23 ∧ magnitudeUnits c * den ≤ d * (2 ^ e * den)) ∨
      magnitudeUnits c * den + 2 ^ e * den = d * (2 ^ e * den) := by
    intro c hc
    by_cases hcase : e ≠ 0 ∧ d = 2 ^ 23
    · refine .inl ⟨hcase.1, hcase.2, hb ▸ Nat.mul_le_mul_right den (magnitudeUnits_le (by omega))⟩
    · right
      rw [show c = e * 2 ^ 23 + (d - 1) by omega, magnitudeUnits_digits (by omega) (by omega), ← Nat.mul_assoc d,
        ← Nat.add_mul, ← Nat.succ_mul, show (d - 1).succ = d by omega]
  refine ⟨?_, fun ht => ?_, fun c hc => ?_, fun c hc ht => ?_⟩
  · rw [Nat.add_mul]; omega
  · rw [Nat.add_mul] at ht
    have := hut (by omega)
    omega
  · rw [Nat.add_mul]
    rcases hbelow c hc with ⟨he, rfl, h⟩ | h <;> omega
  · rw [Nat.add_mul] at ht
    rcases hbelow c hc with ⟨he, rfl, h⟩ | h
    · omega
    · have := hlt (by omega)
      omega

/-- No magnitude is nearer than the nearest, and another is as near only where that one is even. -/
theorem IsNearest.abs_le {b num den : Nat} (hden : 0 < den) (h : IsNearest b num den) (c : Nat) :
    ((magnitudeUnits b * den : Nat) - num : Int).natAbs ≤ ((magnitudeUnits c * den : Nat) - num : Int).natAbs ∧
      (((magnitudeUnits b * den : Nat) - num : Int).natAbs = ((magnitudeUnits c * den : Nat) - num : Int).natAbs → c ≠ b →
        b % 2 = 0) := by
  obtain ⟨hu, hut, hl, hlt⟩ := h
  rw [Nat.add_mul] at hu hut
  have hstrict : ∀ {x y : Nat}, x < y → magnitudeUnits x * den < magnitudeUnits y * den := fun hxy =>
    Nat.mul_lt_mul_of_pos_right (magnitudeUnits_lt hxy) hden
  have hle : ∀ {x y : Nat}, x ≤ y → magnitudeUnits x * den ≤ magnitudeUnits y * den := fun hxy =>
    Nat.mul_le_mul_right den (magnitudeUnits_le hxy)
  rcases Nat.lt_trichotomy c b with hc | rfl | hc
  · obtain ⟨p, rfl⟩ : ∃ p, b = p + 1 := ⟨b - 1, by omega⟩
    have h1 := hl p rfl
    have h2 := hlt p rfl
    rw [Nat.add_mul] at h1 h2
    have h3 := hstrict hc
    have h4 := hle (Nat.lt_succ_iff.mp hc)
    refine ⟨by omega, fun he _ => h2 (by omega)⟩
  · exact ⟨Nat.le_refl _, fun _ hne => absurd rfl hne⟩
  · have h3 := hstrict hc
    have h4 := hle (Nat.succ_le_iff.mpr hc)
    rw [Nat.succ_eq_add_one] at h4
    refine ⟨by omega, fun he _ => hut (by omega)⟩

/-! ## From the nearest magnitude to the statement of the rounding -/

@[simp] theorem signBit_true : signBit true = 2 ^ 31 := rfl

@[simp] theorem signBit_false : signBit false = 0 := rfl

/-- The encoding of a sign and a magnitude, infinite from `255 * 2^23` on. -/
theorem toNat_signed_min (neg : Bool) (b : Nat) :
    (BitVec.ofNat 32 (signBit neg + min b 2139095040)).toNat = signBit neg + min b 2139095040 := by
  rw [BitVec.toNat_ofNat, Nat.mod_eq_of_lt]
  cases neg <;> simp only [signBit_true, signBit_false] <;> omega

/-- The nearest magnitude is finite exactly where the value is below the middle of the largest finite value and `2^128`. -/
theorem IsNearest.finite_iff {b num den : Nat} (hden : 0 < den) (h : IsNearest b num den) :
    b < 255 * 2 ^ 23 ↔ num < (2 ^ 25 - 1) * 2 ^ 252 * den := by
  have hmax : magnitudeUnits (254 * 2 ^ 23 + (2 ^ 23 - 1)) = (2 ^ 24 - 1) * 2 ^ 253 := rfl
  have htop : magnitudeUnits (254 * 2 ^ 23 + (2 ^ 23 - 1) + 1) = 2 ^ 24 * 2 ^ 253 := rfl
  have hle : ∀ {x y : Nat}, x ≤ y → magnitudeUnits x * den ≤ magnitudeUnits y * den := fun hxy =>
    Nat.mul_le_mul_right den (magnitudeUnits_le hxy)
  have hmid : 2 * ((2 ^ 25 - 1) * 2 ^ 252 * den) = magnitudeUnits (254 * 2 ^ 23 + (2 ^ 23 - 1)) * den +
      magnitudeUnits (254 * 2 ^ 23 + (2 ^ 23 - 1) + 1) * den := by
    rw [hmax, htop]; omega
  obtain ⟨hu, hut, hl, hlt⟩ := h
  rw [Nat.add_mul] at hu hut
  constructor
  · intro hb
    have h1 := hle (show b ≤ 254 * 2 ^ 23 + (2 ^ 23 - 1) by omega)
    have h2 := hle (show b + 1 ≤ 254 * 2 ^ 23 + (2 ^ 23 - 1) + 1 by omega)
    refine Nat.lt_of_not_le fun hN => ?_
    have heven := hut (by omega)
    have h3 : magnitudeUnits b * den < magnitudeUnits (254 * 2 ^ 23 + (2 ^ 23 - 1)) * den :=
      Nat.mul_lt_mul_of_pos_right (magnitudeUnits_lt (by omega)) hden
    omega
  · intro hN
    refine Nat.lt_of_not_le fun hb => ?_
    have h0 := hl (b - 1) (by omega)
    rw [Nat.add_mul] at h0
    have h1 := hle (show 254 * 2 ^ 23 + (2 ^ 23 - 1) ≤ b - 1 by omega)
    have h2 := hle (show 254 * 2 ^ 23 + (2 ^ 23 - 1) + 1 ≤ b by omega)
    omega

theorem isFinite_iff (x : F32) : isFinite x ↔ x.toNat % 2 ^ 31 < 255 * 2 ^ 23 := by
  rw [isFinite, exponentField_eq]; omega

theorem natAbs_signed (neg : Bool) (m : Nat) : (signed neg m).natAbs = m := by
  cases neg
  · exact Int.natAbs_natCast m
  · rw [signed_true, Int.natAbs_neg, Int.natAbs_natCast]

theorem signed_mul_natCast (neg : Bool) (m n : Nat) : signed neg m * (n : Int) = signed neg (m * n) := by
  cases neg
  · exact (Int.natCast_mul m n).symm
  · rw [signed_true, signed_true, Int.neg_mul, Int.natCast_mul]

theorem signed_neg_iff {neg : Bool} {m : Nat} (h : 0 < m) : signed neg m < 0 ↔ neg = true := by
  cases neg
  · rw [signed_false]
    exact ⟨fun h => by omega, fun h => Bool.noConfusion h⟩
  · rw [signed_true]
    exact ⟨fun _ => rfl, fun _ => by omega⟩

/-- The distance between values of one sign is that of their magnitudes. -/
theorem distance_same_sign {x : F32} {neg : Bool} (h : isNegative x = neg) (num den : Nat) :
    distance x (signed neg num) den = ((magnitudeUnits (x.toNat % 2 ^ 31) * den : Nat) - num : Int).natAbs := by
  rw [distance, units_eq_signed, h, signed_mul_natCast]
  cases neg
  · rfl
  · rw [signed_true, signed_true]; omega

theorem distance_other_sign {x : F32} {neg : Bool} (h : isNegative x ≠ neg) (num den : Nat) :
    distance x (signed neg num) den = magnitudeUnits (x.toNat % 2 ^ 31) * den + num := by
  rw [distance, units_eq_signed, Bool.eq_not_of_ne h, signed_mul_natCast]
  cases neg
  · rw [Bool.not_false, signed_true, signed_false]; omega
  · rw [Bool.not_true, signed_false, signed_true]; omega

theorem IsNearest.roundsTo {b num den : Nat} (hden : 0 < den) (hnum : 0 < num) (h : IsNearest b num den) (neg : Bool) :
    RoundsTo (BitVec.ofNat 32 (signBit neg + min b 2139095040)) (signed neg num) den := by
  have hr := toNat_signed_min neg b
  generalize BitVec.ofNat 32 (signBit neg + min b 2139095040) = r at hr
  have hsign : isNegative r = neg := by
    rw [Bool.eq_iff_iff, isNegative_iff, hr]
    cases neg
    · exact ⟨fun h => by rw [signBit_false] at h; omega, fun h => Bool.noConfusion h⟩
    · exact ⟨fun _ => rfl, fun _ => by rw [signBit_true]; omega⟩
  have hmag : r.toNat % 2 ^ 31 = min b 2139095040 := by
    rw [hr]; cases neg <;> simp only [signBit_true, signBit_false] <;> omega
  have habs := natAbs_signed neg num
  refine ⟨?_, fun hbig => ?_, fun hsmall => ?_⟩
  · rw [signed_neg_iff hnum, ← hsign, isNegative_iff]
  · have : ¬ b < 255 * 2 ^ 23 := fun hb => by
      have := (h.finite_iff hden).mp hb
      omega
    omega
  · have hb := (h.finite_iff hden).mpr (by omega)
    have hmag : r.toNat % 2 ^ 31 = b := by omega
    refine ⟨(isFinite_iff r).mpr (by omega), fun x hx => ?_⟩
    rw [distance_same_sign hsign, hmag]
    by_cases hsx : isNegative x = neg
    · rw [distance_same_sign hsx]
      obtain ⟨hle, htie⟩ := h.abs_le hden (x.toNat % 2 ^ 31)
      refine ⟨hle, fun he hne => ?_⟩
      have := htie he fun hc => hne (by rw [units_eq_signed, units_eq_signed, hsx, hsign, hmag, hc])
      omega
    · rw [distance_other_sign hsx]
      obtain ⟨hle, htie⟩ := h.abs_le hden 0
      rw [magnitudeUnits_zero, Nat.zero_mul] at hle htie
      refine ⟨by omega, fun he hne => ?_⟩
      have hx0 : magnitudeUnits (x.toNat % 2 ^ 31) = 0 := by
        have : magnitudeUnits (x.toNat % 2 ^ 31) * den = 0 := by omega
        exact (Nat.mul_eq_zero.mp this).resolve_right (by omega)
      have := htie (by omega) fun hc => hne ?_
      · omega
      · rw [units_eq_signed, units_eq_signed, hx0, hmag, ← hc]
        cases isNegative x <;> cases isNegative r <;> rfl

end Sys2Proof.Proofs
end

section
/-! PROOF. `roundFloat` gives the nearest binary32 value to every value that lies where its argument does, as far as rounding can
see (00_scope.md R12). -/

namespace Sys2Proof.Proofs

open Machine Claims

/-- The remainder decides: `roundEven m k` is at most half a unit away from `m / 2^k`, and half a unit only where it is even. -/
theorem roundEven_bounds (m k : Nat) :
    (m ≤ 2 * (roundEven m (k + 1) * 2 ^ k) + 2 ^ k ∧ 2 * (roundEven m (k + 1) * 2 ^ k) ≤ m + 2 ^ k) ∧
      (m = 2 * (roundEven m (k + 1) * 2 ^ k) + 2 ^ k ∨ 2 * (roundEven m (k + 1) * 2 ^ k) = m + 2 ^ k →
        roundEven m (k + 1) % 2 = 0) := by
  have hk := Nat.two_pow_pos k
  have hdiv := Nat.div_add_mod' m (2 ^ (k + 1))
  have hmod := Nat.mod_lt m (Nat.two_pow_pos (k + 1))
  simp only [roundEven, Nat.pow_eq]
  generalize m / 2 ^ (k + 1) = q at *
  generalize m % 2 ^ (k + 1) = r at *
  rw [Nat.pow_succ] at *
  have hq : q * (2 ^ k * 2) = 2 * (q * 2 ^ k) := by ac_rfl
  split
  · omega
  · split
    · rw [Nat.add_mul]; omega
    · rcases Nat.mod_two_eq_zero_or_one q with h | h <;> rw [h]
      · rw [Nat.add_zero]; omega
      · rw [Nat.add_mul]; omega

/-- `num / den` and `m` lie on the same side of every half of a digit, where the digits are worth `2^e` in the one and `2^(k + 1)`
in the other. -/
def SameSide (num den e m k : Nat) : Prop :=
  ∀ c : Nat, (c * (2 ^ e * den) ≤ 2 * num ↔ c * 2 ^ k ≤ m) ∧ (2 * num ≤ c * (2 ^ e * den) ↔ m ≤ c * 2 ^ k)

theorem isRounded_roundEven {num den e m k : Nat} (h : SameSide num den e m k) (hm : m < 2 ^ 25 * 2 ^ k)
    (hn : e = 0 ∨ 2 ^ 24 * 2 ^ k ≤ m) : IsRounded e (roundEven m (k + 1)) num den := by
  obtain ⟨⟨hu, hl⟩, ht⟩ := roundEven_bounds m k
  generalize roundEven m (k + 1) = d at *
  have hk := Nat.two_pow_pos k
  have habove := h (2 * d + 1)
  have hbelow := h (2 * d - 1)
  simp only [Nat.add_mul, Nat.sub_mul, Nat.one_mul, Nat.mul_assoc] at habove hbelow
  have hzero : d = 0 ∨ (2 ^ e * den ≤ d * (2 ^ e * den) ∧ 2 ^ k ≤ d * 2 ^ k) := by
    refine (Nat.eq_zero_or_pos d).imp_right fun hd => ⟨Nat.le_mul_of_pos_left _ hd, Nat.le_mul_of_pos_left _ hd⟩
  refine ⟨?_, hn.imp_right fun hn => ?_, habove.2.mpr hu, fun he => ht (.inl ?_), ?_, fun he => ?_⟩
  · refine Nat.le_of_not_lt fun hd => ?_
    have : (2 ^ 24 + 1) * 2 ^ k ≤ d * 2 ^ k := Nat.mul_le_mul_right _ (by omega)
    omega
  · have := (h (2 ^ 24)).1.mpr hn
    omega
  · have := habove.1.mp (by omega)
    omega
  · rcases hzero with rfl | hz
    · omega
    · have := hbelow.1.mpr (by omega)
      omega
  · rcases hzero with rfl | hz
    · rfl
    · have := hbelow.2.mp (by omega)
      exact ht (.inr (by omega))

theorem isRounded_exact {num den e d : Nat} (hden : 0 < den) (hd : d ≤ 2 ^ 24) (hn : e = 0 ∨ 2 ^ 23 ≤ d)
    (h : num = d * (2 ^ e * den)) : IsRounded e d num den := by
  have hU : 0 < 2 ^ e * den := Nat.mul_pos (Nat.two_pow_pos e) hden
  exact ⟨hd, hn.imp_right fun hn => h ▸ Nat.mul_le_mul_right _ hn, by omega, by omega, by omega, by omega⟩

/-! ## The place of the last digit -/

/-- The last digit of `m * 2^e` is that of the least exponent or leaves 24 bits. -/
theorem lastPlace_cases (m : Nat) (e : Int) :
    -149 ≤ lastPlace m e ∧ e + (Nat.log2 m : Int) - 23 ≤ lastPlace m e ∧
      (lastPlace m e = -149 ∨ lastPlace m e = e + (Nat.log2 m : Int) - 23) := by
  unfold lastPlace; omega

/-- `num / den` is `m * 2^e` (in units of `2^-149`), or lies where it does as far as the digits at its last place can tell. -/
def Locates (num den m : Nat) (e : Int) : Prop :=
  (∀ k : Nat, e = lastPlace m e + k → num = m * 2 ^ k * (2 ^ (lastPlace m e + 149).toNat * den)) ∧
    ∀ k : Nat, e + (k + 1) = lastPlace m e → SameSide num den (lastPlace m e + 149).toNat m k

theorem roundFloat_roundsTo {num den m : Nat} {e : Int} (hden : 0 < den) (hnum : 0 < num) (hm : m ≠ 0)
    (h : Locates num den m e) (neg : Bool) : RoundsTo (roundFloat neg m e) (signed neg num) den := by
  obtain ⟨hexact, hside⟩ := h
  obtain ⟨hmin, hdigits, hplace⟩ := lastPlace_cases m e
  have hlow := Nat.log2_self_le hm
  have hhigh := Nat.lt_log2_self (n := m)
  simp only [roundFloat, hm, if_false]
  generalize lastPlace m e = p at *
  refine (IsRounded.isNearest hden ?_).roundsTo hden hnum neg
  split
  case isTrue hle =>
    obtain ⟨k, hk⟩ : ∃ k : Nat, e = p + k := ⟨(e - p).toNat, by omega⟩
    rw [show (e - p).toNat = k by omega]
    refine isRounded_exact hden ?_ ?_ (hexact k hk)
    · calc m * 2 ^ k ≤ 2 ^ (m.log2 + 1) * 2 ^ k := Nat.mul_le_mul_right _ (Nat.le_of_lt hhigh)
        _ = 2 ^ (m.log2 + 1 + k) := (Nat.pow_add ..).symm
        _ ≤ 2 ^ 24 := Nat.pow_le_pow_right (by decide) (by omega)
    · refine (show (p + 149).toNat = 0 ∨ m.log2 + k = 23 by omega).imp_right fun h23 => ?_
      calc 2 ^ 23 = 2 ^ m.log2 * 2 ^ k := by rw [← Nat.pow_add, h23]
        _ ≤ m * 2 ^ k := Nat.mul_le_mul_right _ hlow
  case isFalse hlt =>
    obtain ⟨k, hk⟩ : ∃ k : Nat, e + (k + 1) = p := ⟨(p - e - 1).toNat, by omega⟩
    rw [show (p - e).toNat = k + 1 by omega]
    refine isRounded_roundEven (hside k hk) ?_ ?_
    · calc m < 2 ^ (m.log2 + 1) := hhigh
        _ ≤ 2 ^ (25 + k) := Nat.pow_le_pow_right (by decide) (by omega)
        _ = 2 ^ 25 * 2 ^ k := Nat.pow_add ..
    · refine (show (p + 149).toNat = 0 ∨ 24 + k = m.log2 by omega).imp_right fun h24 => ?_
      rw [← Nat.pow_add, h24]
      exact hlow

/-- Two values of one scale are on the same side of every half of a digit. -/
theorem sameSide_of_scale {num den e m k s w : Nat} (hs : 0 < s) (hw : 0 < w) (hnum : 2 * num * s = m * w)
    (hunit : 2 ^ e * den * s = 2 ^ k * w) : SameSide num den e m k := by
  intro c
  have hc : c * (2 ^ e * den) * s = c * 2 ^ k * w := by rw [Nat.mul_assoc c, hunit, Nat.mul_assoc]
  constructor <;> rw [← Nat.mul_le_mul_right_iff hs, hc, hnum, Nat.mul_le_mul_right_iff hw]

/-- A value that is `m * 2^e` exactly. -/
theorem locates_of_eq {num den m a b : Nat} {e : Int} (hden : 0 < den) (he : (a : Int) - b = e + 149)
    (h : num * 2 ^ b = m * 2 ^ a * den) : Locates num den m e := by
  obtain ⟨hmin, -⟩ := lastPlace_cases m e
  obtain ⟨x, hx⟩ : ∃ x : Nat, (x : Int) = lastPlace m e + 149 := ⟨(lastPlace m e + 149).toNat, by omega⟩
  unfold Locates
  rw [← hx, Int.toNat_natCast]
  constructor
  · intro k hk
    refine Nat.eq_of_mul_eq_mul_right (Nat.two_pow_pos b) ?_
    have hgroup : ∀ p q r : Nat, m * (p * (q * r)) * den = m * p * (q * den) * r := fun p q r => by ac_rfl
    rw [h, show a = k + (x + b) by omega, Nat.pow_add, Nat.pow_add]
    exact hgroup _ _ _
  · intro k hk
    refine sameSide_of_scale (s := 2 ^ b) (w := 2 ^ (a + 1) * den) (Nat.two_pow_pos b)
      (Nat.mul_pos (Nat.two_pow_pos _) hden) ?_ ?_
    · rw [Nat.mul_assoc, h, Nat.pow_succ]
      ac_rfl
    · calc 2 ^ x * den * 2 ^ b = 2 ^ (x + b) * den := by rw [Nat.pow_add]; ac_rfl
        _ = 2 ^ (k + (a + 1)) * den := by rw [show x + b = k + (a + 1) by omega]
        _ = 2 ^ k * (2 ^ (a + 1) * den) := by rw [Nat.pow_add, Nat.mul_assoc]

/-! ## The quotient with its sticky bit -/

theorem le_quotientBits {m n : Nat} (hn : 0 < n) (c : Nat) : 2 * c ≤ quotientBits m n ↔ c * n ≤ m * 2 ^ 50 := by
  rw [← Nat.le_div_iff_mul_le hn]
  unfold quotientBits
  rw [Nat.pow_eq]
  split <;> omega

theorem quotientBits_le {m n : Nat} (hn : 0 < n) (c : Nat) : quotientBits m n ≤ 2 * c ↔ m * 2 ^ 50 ≤ c * n := by
  have hdiv := Nat.div_add_mod' (m * 2 ^ 50) n
  have hmod := Nat.mod_lt (m * 2 ^ 50) hn
  unfold quotientBits
  rw [Nat.pow_eq]
  generalize m * 2 ^ 50 / n = q at *
  have hge : c ≤ q ↔ c * n ≤ q * n := (Nat.mul_le_mul_right_iff hn).symm
  have hle : q ≤ c ↔ q * n ≤ c * n := (Nat.mul_le_mul_right_iff hn).symm
  have hlt : q + 1 ≤ c ↔ (q + 1) * n ≤ c * n := (Nat.mul_le_mul_right_iff hn).symm
  rw [Nat.succ_mul] at hlt
  split <;> omega

/-- A quotient of 24-bit magnitudes has more than 26 bits. -/
theorem quotientBits_ge {m n : Nat} (hm : m ≠ 0) (hn : 0 < n) (hlt : n < 2 ^ 24) : 2 ^ 27 ≤ quotientBits m n :=
  (le_quotientBits hn (2 ^ 26)).mpr (by omega)

/-- The sticky bit loses nothing: the quotient is long enough that every half of a digit is even in it. -/
theorem locates_quotientBits {m n a b : Nat} (hm : m ≠ 0) (hn : 0 < n) (hlt : n < 2 ^ 24) :
    Locates (m * 2 ^ a * 2 ^ 149) (n * 2 ^ b) (quotientBits m n) ((a : Int) - b - 51) := by
  obtain ⟨hmin, hdigits, -⟩ := lastPlace_cases (quotientBits m n) ((a : Int) - b - 51)
  have hbits : 27 ≤ (quotientBits m n).log2 := by
    have h27 := quotientBits_ge hm hn hlt
    exact (Nat.le_log2 (by omega)).mpr h27
  obtain ⟨x, hx⟩ : ∃ x : Nat, (x : Int) = lastPlace (quotientBits m n) ((a : Int) - b - 51) + 149 :=
    ⟨(lastPlace (quotientBits m n) ((a : Int) - b - 51) + 149).toNat, by omega⟩
  unfold Locates
  rw [← hx, Int.toNat_natCast]
  refine ⟨fun k hk => by omega, fun k hk c => ?_⟩
  obtain ⟨j, rfl⟩ : ∃ j, k = j + 1 := ⟨k - 1, by omega⟩
  have hw : 0 < 2 ^ (a + 100) := Nat.two_pow_pos _
  have hc : c * (2 ^ x * (n * 2 ^ b)) = c * 2 ^ j * n * 2 ^ (a + 100) := by
    have hjoin : ∀ p q : Nat, c * (p * (n * q)) = c * n * (p * q) := fun p q => by ac_rfl
    have hsplit : ∀ p q : Nat, c * n * (p * q) = c * p * n * q := fun p q => by ac_rfl
    calc c * (2 ^ x * (n * 2 ^ b)) = c * n * 2 ^ (x + b) := by rw [hjoin, ← Nat.pow_add]
      _ = c * n * 2 ^ (j + (a + 100)) := by rw [show x + b = j + (a + 100) by omega]
      _ = c * 2 ^ j * n * 2 ^ (a + 100) := by rw [Nat.pow_add, hsplit]
  have hnum : 2 * (m * 2 ^ a * 2 ^ 149) = m * 2 ^ 50 * 2 ^ (a + 100) := by
    rw [Nat.pow_add, Nat.mul_mul_mul_comm]; omega
  rw [hc, hnum, Nat.mul_le_mul_right_iff hw, Nat.mul_le_mul_right_iff hw, ← le_quotientBits hn, ← quotientBits_le hn,
    show c * 2 ^ (j + 1) = 2 * (c * 2 ^ j) by rw [Nat.pow_succ]; ac_rfl]
  exact ⟨Iff.rfl, Iff.rfl⟩

end Sys2Proof.Proofs
end

section
/-! PROOF. What an encoding stands for: the model's reading of it against the fields the statements name. -/

namespace Sys2Proof.Proofs

open Machine Claims

theorem ble_eq_isNegative (x : F32) : Nat.ble 2147483648 x.toNat = isNegative x := by
  exact Bool.eq_iff_iff.mpr ((iff_of_eq Nat.ble_eq).trans isNegative_iff.symm)

theorem floatVal_of_isNan {x : F32} (h : isNan x) : floatVal x = .nan := by
  obtain ⟨he, hf⟩ := h
  unfold exponentField at he
  simp only [floatVal]
  exact (if_pos he).trans (if_neg hf)

theorem floatVal_of_isInfinite {x : F32} (h : isInfinite x) : floatVal x = .inf (isNegative x) := by
  rcases h with rfl | rfl <;> rfl

theorem floatInf_isNegative {x : F32} (h : isInfinite x) : floatInf (isNegative x) = x := by
  rcases h with rfl | rfl <;> rfl

/-- A finite encoding is a magnitude of at most 24 bits at an exponent of `-149` or more. -/
theorem floatVal_of_isFinite {x : F32} (h : isFinite x) : ∃ m k : Nat, m < 2 ^ 24 ∧
    floatVal x = .fin (isNegative x) m ((k : Int) - 149) ∧ units x = signed (isNegative x) (m * 2 ^ k) := by
  have hu := units_eq_signed x
  have hm : x.toNat % 2 ^ 31 % 2 ^ 23 = x.toNat % 2 ^ 23 := by omega
  rw [magnitudeUnits, ← exponentField_eq, hm] at hu
  unfold isFinite at h
  have hval : floatVal x = if exponentField x = 0 then .fin (isNegative x) (x.toNat % 2 ^ 23) (-149)
      else .fin (isNegative x) (x.toNat % 2 ^ 23 + 2 ^ 23) ((exponentField x : Int) - 150) := by
    simp only [floatVal, ble_eq_isNegative]
    exact if_neg h
  by_cases h0 : exponentField x = 0
  · rw [if_pos h0] at hu hval
    exact ⟨_, 0, by omega, hval, by rw [hu, Nat.pow_zero, Nat.mul_one]⟩
  · rw [if_neg h0] at hu hval
    exact ⟨_, exponentField x - 1, by omega, by rw [hval]; congr 1; omega, hu⟩

theorem isNan_floatNan : isNan floatNan := by unfold isNan; decide

/-- The sign of a product or quotient, as the model takes it. -/
theorem signedAs_eq (a b magnitude : F32) :
    signedAs a b magnitude = if isNegative a = isNegative b then magnitude else magnitude ||| 0x80000000#32 := by
  unfold signedAs
  simp only [← isNegative_iff, ← Bool.eq_iff_iff]

theorem signedAs_zero (a b : F32) : signedAs a b 0x00000000#32 = floatZero (isNegative a != isNegative b) := by
  rw [signedAs_eq]; cases isNegative a <;> cases isNegative b <;> rfl

theorem signedAs_inf (a b : F32) : signedAs a b 0x7F800000#32 = floatInf (isNegative a != isNegative b) := by
  rw [signedAs_eq]; cases isNegative a <;> cases isNegative b <;> rfl

/-! ## The other sign -/

theorem toNat_fneg (x : F32) : (fneg x).toNat = x.toNat % 2 ^ 31 + (if isNegative x then 0 else 2 ^ 31) := by
  have hlow : (x.toNat ^^^ 2 ^ 31) % 2 ^ 31 = x.toNat % 2 ^ 31 := by
    rw [Nat.xor_mod_two_pow, Nat.mod_self, Nat.xor_zero]
  have hhigh : (x.toNat ^^^ 2 ^ 31) / 2 ^ 31 = x.toNat / 2 ^ 31 ^^^ 1 := by
    exact Nat.xor_div_two_pow
  have hx : (fneg x).toNat = x.toNat ^^^ 2 ^ 31 := BitVec.toNat_xor ..
  have hlt := x.isLt
  rw [hx]
  by_cases hs : 2 ^ 31 ≤ x.toNat
  · rw [show x.toNat / 2 ^ 31 = 1 by omega, Nat.xor_self] at hhigh
    rw [if_pos (isNegative_iff.mpr hs)]
    omega
  · rw [show x.toNat / 2 ^ 31 = 0 by omega, Nat.zero_xor] at hhigh
    rw [if_neg (mt isNegative_iff.mp hs)]
    omega

@[simp] theorem isNegative_fneg (x : F32) : isNegative (fneg x) = !isNegative x := by
  rw [Bool.eq_iff_iff, isNegative_iff, toNat_fneg]
  cases isNegative x
  · exact ⟨fun _ => rfl, fun _ => Nat.le_add_left _ _⟩
  · exact ⟨fun h => absurd h (Nat.not_le_of_lt (Nat.mod_lt _ (by decide))), fun h => Bool.noConfusion h⟩

theorem toNat_fneg_mod (x : F32) : (fneg x).toNat % 2 ^ 31 = x.toNat % 2 ^ 31 := by
  rw [toNat_fneg]; split <;> omega

@[simp] theorem isFinite_fneg (x : F32) : isFinite (fneg x) ↔ isFinite x := by
  rw [isFinite_iff, isFinite_iff, toNat_fneg_mod]

@[simp] theorem isNan_fneg (x : F32) : isNan (fneg x) ↔ isNan x := by
  have := toNat_fneg_mod x
  rw [isNan, isNan, exponentField_eq, exponentField_eq, this]
  omega

theorem isInfinite_fneg {x : F32} (h : isInfinite x) : isInfinite (fneg x) := by
  rcases h with rfl | rfl
  · exact .inr rfl
  · exact .inl rfl

theorem fneg_ne (x : F32) : fneg x ≠ x := fun h => by
  have := isNegative_fneg x
  rw [h] at this
  cases hx : isNegative x <;> rw [hx] at this <;> exact Bool.noConfusion this

/-- An infinity is any other one with its sign changed. -/
theorem eq_or_eq_fneg {x y : F32} (hx : isInfinite x) (hy : isInfinite y) : x = y ∨ x = fneg y := by
  rcases hx with rfl | rfl <;> rcases hy with rfl | rfl <;> decide

@[simp] theorem units_fneg (x : F32) : units (fneg x) = -units x := by
  rw [units_eq_signed, units_eq_signed, isNegative_fneg, toNat_fneg_mod]
  cases isNegative x
  · rfl
  · exact (Int.neg_neg _).symm

end Sys2Proof.Proofs
end

section
/-! PROOF. Sums and differences (O59). -/

namespace Sys2Proof.Proofs

open Machine Claims

theorem fadd_of_isNan {a b : F32} (h : isNan a ∨ isNan b) : fadd a b = floatNan := by
  unfold fadd
  rcases h with h | h <;> rw [floatVal_of_isNan h]
  cases floatVal a <;> rfl

theorem fadd_infinite_finite {a b : F32} (ha : isInfinite a) (hb : isFinite b) : fadd a b = a := by
  obtain ⟨n, j, -, hvb, -⟩ := floatVal_of_isFinite hb
  rw [fadd, floatVal_of_isInfinite ha, hvb]
  exact floatInf_isNegative ha

theorem fadd_finite_infinite {a b : F32} (ha : isFinite a) (hb : isInfinite b) : fadd a b = b := by
  obtain ⟨m, k, -, hva, -⟩ := floatVal_of_isFinite ha
  rw [fadd, hva, floatVal_of_isInfinite hb]
  exact floatInf_isNegative hb

theorem fadd_infinite_infinite {a b : F32} (ha : isInfinite a) (hb : isInfinite b) :
    fadd a b = if a = b then a else floatNan := by
  have hab : isNegative a = isNegative b ↔ a = b :=
    ⟨fun h => by rw [← floatInf_isNegative ha, h, floatInf_isNegative hb], congrArg isNegative⟩
  rw [fadd, floatVal_of_isInfinite ha, floatVal_of_isInfinite hb]
  simp only [hab, floatInf_isNegative ha]

theorem signed_natAbs (x : Int) : signed (decide (x < 0)) x.natAbs = x := by
  by_cases h : x < 0
  · rw [decide_eq_true h, signed_true]; omega
  · rw [decide_eq_false h, signed_false]; omega

/-- A magnitude in units of `2^k`, rescaled to units of a smaller `2^p` and back. -/
theorem signed_rescale (neg : Bool) (m : Nat) {p k : Nat} (h : p ≤ k) :
    signed neg m * (2 ^ (k - p) : Nat) * (2 ^ p : Nat) = signed neg (m * 2 ^ k) := by
  rw [signed_mul_natCast, signed_mul_natCast, Nat.mul_assoc, ← Nat.pow_add, Nat.sub_add_cancel h]

/-- The sum of two finite values, as a number of units of the smaller exponent. -/
theorem fadd_of_isFinite {a b : F32} (ha : isFinite a) (hb : isFinite b) : ∃ (sum : Int) (p : Nat),
    units a + units b = sum * (2 ^ p : Nat) ∧
      fadd a b = if sum = 0 then floatZero (isNegative a && isNegative b)
        else roundFloat (decide (sum < 0)) sum.natAbs ((p : Int) - 149) := by
  obtain ⟨m, k, -, hva, hua⟩ := floatVal_of_isFinite ha
  obtain ⟨n, j, -, hvb, hub⟩ := floatVal_of_isFinite hb
  refine ⟨signed (isNegative a) m * (2 ^ (k - min k j) : Nat) + signed (isNegative b) n * (2 ^ (j - min k j) : Nat),
    min k j, ?_, ?_⟩
  · rw [hua, hub, Int.add_mul, signed_rescale _ _ (Nat.min_le_left k j), signed_rescale _ _ (Nat.min_le_right k j)]
  · have hp : min ((k : Int) - 149) ((j : Int) - 149) = ((min k j : Nat) : Int) - 149 := by omega
    simp only [fadd, hva, hvb, hp]
    rw [show ((k : Int) - 149 - (((min k j : Nat) : Int) - 149)).toNat = k - min k j by omega,
      show ((j : Int) - 149 - (((min k j : Nat) : Int) - 149)).toNat = j - min k j by omega]
    rfl

theorem fadd_roundsTo {a b : F32} (ha : isFinite a) (hb : isFinite b) (h : units a + units b ≠ 0) :
    RoundsTo (fadd a b) (units a + units b) 1 := by
  obtain ⟨sum, p, hsum, hadd⟩ := fadd_of_isFinite ha hb
  have h0 : sum ≠ 0 := by rintro rfl; exact h (by rw [hsum, Int.zero_mul])
  have hpos : 0 < sum.natAbs := Int.natAbs_pos.mpr h0
  rw [hadd, if_neg h0, hsum, ← signed_natAbs sum, signed_mul_natCast, signed_natAbs]
  refine roundFloat_roundsTo Nat.one_pos (Nat.mul_pos hpos (Nat.two_pow_pos p)) (Nat.ne_of_gt hpos) ?_ _
  exact locates_of_eq (a := p) (b := 0) Nat.one_pos (by omega) (by rw [Nat.pow_zero])

theorem fadd_zero_sum {a b : F32} (ha : isFinite a) (hb : isFinite b) (h : units a + units b = 0) :
    fadd a b = floatZero (isNegative a && isNegative b) := by
  obtain ⟨sum, p, hsum, hadd⟩ := fadd_of_isFinite ha hb
  rw [hsum] at h
  rw [hadd, if_pos ((Int.mul_eq_zero.mp h).resolve_right (Int.natCast_ne_zero.mpr (Nat.ne_of_gt (Nat.two_pow_pos p))))]

theorem floatZero_eq (neg : Bool) : floatZero neg = if neg then 0x80000000#32 else 0x00000000#32 := by cases neg <;> rfl

/-- Settles O59: the sum by the class of each operand, and the difference as the sum with the other sign. -/
theorem floatAddRoundsToNearest : Obligations.FloatAddRoundsToNearest := by
  unfold Obligations.FloatAddRoundsToNearest
  intro a b
  refine ⟨fun ha hb => ⟨fadd_roundsTo ha hb, fun h => ?_, fun h => ?_, fun h => ?_⟩, fun h => ?_, fun ha hb => ?_,
    fun ha hb => ?_, fun ha hb => ?_⟩
  · rw [fadd_zero_sum ha hb h, floatZero_eq]
    simp only [Bool.and_eq_true, isNegative_iff]
  · rw [Int.sub_eq_add_neg, ← units_fneg] at h ⊢
    exact fadd_roundsTo ha ((isFinite_fneg b).mpr hb) h
  · rw [Int.sub_eq_add_neg, ← units_fneg] at h
    rw [fsub, fadd_zero_sum ha ((isFinite_fneg b).mpr hb) h, floatZero_eq, isNegative_fneg]
    simp only [Bool.and_eq_true, isNegative_iff, Bool.not_eq_true', ← Bool.not_eq_true, Nat.not_le]
  · rw [fsub, fadd_of_isNan h, fadd_of_isNan (h.imp_right (isNan_fneg b).mpr)]
    exact ⟨isNan_floatNan, isNan_floatNan⟩
  · exact ⟨fadd_infinite_finite ha hb, fadd_infinite_finite ha ((isFinite_fneg b).mpr hb)⟩
  · exact ⟨fadd_finite_infinite ha hb, fadd_finite_infinite ha (isInfinite_fneg hb)⟩
  · rw [fsub, fadd_infinite_infinite ha hb, fadd_infinite_infinite ha (isInfinite_fneg hb)]
    refine ⟨fun h => ?_, fun h => ?_⟩
    · subst h
      rw [if_pos rfl, if_neg (fneg_ne a).symm]
      exact ⟨rfl, isNan_floatNan⟩
    · rw [if_neg h, if_pos ((eq_or_eq_fneg ha hb).resolve_left h)]
      exact ⟨isNan_floatNan, rfl⟩

end Sys2Proof.Proofs
end

section
/-! PROOF. Products and quotients (O60). -/

namespace Sys2Proof.Proofs

open Machine Claims

theorem signed_mul_signed (s t : Bool) (m n : Nat) : signed s m * signed t n = signed (s != t) (m * n) := by
  cases t
  · rw [signed_false, signed_mul_natCast, Bool.bne_false]
  · rw [signed_true, Int.mul_neg, signed_mul_natCast, Bool.bne_true]
    cases s
    · rfl
    · exact Int.neg_neg _

theorem signed_eq_zero {s : Bool} {m : Nat} : signed s m = 0 ↔ m = 0 := by
  rw [← Int.natAbs_eq_zero, natAbs_signed]

theorem sign_signed (s : Bool) {m : Nat} (hm : 0 < m) : (signed s m).sign = signed s 1 := by
  cases s
  · exact Int.sign_eq_one_of_pos (by rw [signed_false]; omega)
  · exact Int.sign_eq_neg_one_of_neg (by rw [signed_true]; omega)

/-- The magnitude of a finite encoding is 0 exactly where its value is. -/
theorem units_eq_zero_iff {x : F32} {m k : Nat} (h : units x = signed (isNegative x) (m * 2 ^ k)) : units x = 0 ↔ m = 0 := by
  rw [h, signed_eq_zero, Nat.mul_eq_zero, or_iff_left (Nat.ne_of_gt (Nat.two_pow_pos k))]

theorem magnitude_pos {m : Nat} (hm : m ≠ 0) (k : Nat) : 0 < m * 2 ^ k :=
  Nat.mul_pos (Nat.pos_of_ne_zero hm) (Nat.two_pow_pos k)

theorem roundFloat_zero (neg : Bool) (e : Int) : roundFloat neg 0 e = floatZero neg := if_pos rfl

/-! ## Operands that are not finite -/

theorem fmul_of_isNan {a b : F32} (h : isNan a ∨ isNan b) : fmul a b = floatNan := by
  unfold fmul
  rcases h with h | h <;> rw [floatVal_of_isNan h]
  cases floatVal a <;> rfl

theorem fdiv_of_isNan {a b : F32} (h : isNan a ∨ isNan b) : fdiv a b = floatNan := by
  unfold fdiv
  rcases h with h | h <;> rw [floatVal_of_isNan h]
  cases floatVal a <;> rfl

theorem fmul_infinite_infinite {a b : F32} (ha : isInfinite a) (hb : isInfinite b) :
    fmul a b = signedAs a b 0x7F800000#32 := by
  rw [fmul, floatVal_of_isInfinite ha, floatVal_of_isInfinite hb, signedAs_inf]

theorem fdiv_infinite_infinite {a b : F32} (ha : isInfinite a) (hb : isInfinite b) : fdiv a b = floatNan := by
  rw [fdiv, floatVal_of_isInfinite ha, floatVal_of_isInfinite hb]

theorem fmul_infinite_finite {a b : F32} (ha : isInfinite a) (hb : isFinite b) :
    fmul a b = if units b = 0 then floatNan else signedAs a b 0x7F800000#32 := by
  obtain ⟨n, j, -, hvb, hub⟩ := floatVal_of_isFinite hb
  rw [fmul, floatVal_of_isInfinite ha, hvb, signedAs_inf]
  simp only [units_eq_zero_iff hub]

theorem fmul_finite_infinite {a b : F32} (ha : isFinite a) (hb : isInfinite b) :
    fmul a b = if units a = 0 then floatNan else signedAs a b 0x7F800000#32 := by
  obtain ⟨m, k, -, hva, hua⟩ := floatVal_of_isFinite ha
  rw [fmul, hva, floatVal_of_isInfinite hb, signedAs_inf]
  simp only [units_eq_zero_iff hua]

theorem fdiv_infinite_finite {a b : F32} (ha : isInfinite a) (hb : isFinite b) :
    fdiv a b = signedAs a b 0x7F800000#32 := by
  obtain ⟨n, j, -, hvb, -⟩ := floatVal_of_isFinite hb
  rw [fdiv, floatVal_of_isInfinite ha, hvb, signedAs_inf]

theorem fdiv_finite_infinite {a b : F32} (ha : isFinite a) (hb : isInfinite b) :
    fdiv a b = signedAs a b 0x00000000#32 := by
  obtain ⟨m, k, -, hva, -⟩ := floatVal_of_isFinite ha
  rw [fdiv, hva, floatVal_of_isInfinite hb, signedAs_zero]

/-! ## Finite operands -/

theorem fmul_roundsTo {a b : F32} (ha : isFinite a) (hb : isFinite b) (h : units a * units b ≠ 0) :
    RoundsTo (fmul a b) (units a * units b) (2 ^ 149) := by
  obtain ⟨m, k, -, hva, hua⟩ := floatVal_of_isFinite ha
  obtain ⟨n, j, -, hvb, hub⟩ := floatVal_of_isFinite hb
  have hm : m ≠ 0 := mt (units_eq_zero_iff hua).mpr fun h0 => h (by rw [h0, Int.zero_mul])
  have hn : n ≠ 0 := mt (units_eq_zero_iff hub).mpr fun h0 => h (by rw [h0, Int.mul_zero])
  rw [fmul, hva, hvb, hua, hub, signed_mul_signed]
  have hscale : m * 2 ^ k * (n * 2 ^ j) = m * n * (2 ^ k * 2 ^ j) := Nat.mul_mul_mul_comm ..
  refine roundFloat_roundsTo (Nat.two_pow_pos 149) (Nat.mul_pos (magnitude_pos hm k) (magnitude_pos hn j))
    (Nat.mul_ne_zero hm hn) ?_ _
  exact locates_of_eq (a := k + j) (b := 149) (Nat.two_pow_pos 149) (by omega) (by rw [hscale, Nat.pow_add])

theorem fmul_zero_product {a b : F32} (ha : isFinite a) (hb : isFinite b) (h : units a * units b = 0) :
    fmul a b = signedAs a b 0x00000000#32 := by
  obtain ⟨m, k, -, hva, hua⟩ := floatVal_of_isFinite ha
  obtain ⟨n, j, -, hvb, hub⟩ := floatVal_of_isFinite hb
  rw [Int.mul_eq_zero, units_eq_zero_iff hua, units_eq_zero_iff hub, ← Nat.mul_eq_zero] at h
  rw [fmul, hva, hvb, signedAs_zero]
  simp only [h, roundFloat_zero]

theorem fdiv_roundsTo {a b : F32} (ha : isFinite a) (hb : isFinite b) (h0 : units a ≠ 0) (h1 : units b ≠ 0) :
    RoundsTo (fdiv a b) (units a * 2 ^ 149 * (units b).sign) (units b).natAbs := by
  obtain ⟨m, k, -, hva, hua⟩ := floatVal_of_isFinite ha
  obtain ⟨n, j, hlt, hvb, hub⟩ := floatVal_of_isFinite hb
  have hm : m ≠ 0 := mt (units_eq_zero_iff hua).mpr h0
  have hn : n ≠ 0 := mt (units_eq_zero_iff hub).mpr h1
  have hden := magnitude_pos hn j
  have hnum : units a * 2 ^ 149 * (units b).sign = signed (isNegative a != isNegative b) (m * 2 ^ k * 2 ^ 149) := by
    rw [hua, hub, sign_signed _ hden, show (2 ^ 149 : Int) = ((2 ^ 149 : Nat) : Int) from rfl, signed_mul_natCast,
      signed_mul_signed, Nat.mul_one]
  rw [hnum, hub, natAbs_signed, fdiv, hva, hvb]
  simp only [hn, if_false]
  rw [show (k : Int) - 149 - ((j : Int) - 149) - 51 = (k : Int) - j - 51 by omega]
  have hloc := locates_quotientBits (a := k) (b := j) hm (Nat.pos_of_ne_zero hn) hlt
  have hbits := quotientBits_ge hm (Nat.pos_of_ne_zero hn) hlt
  exact roundFloat_roundsTo hden (Nat.mul_pos (magnitude_pos hm k) (Nat.two_pow_pos 149)) (by omega) hloc _

theorem fdiv_zero_dividend {a b : F32} (ha : isFinite a) (hb : isFinite b) (h0 : units a = 0) (h1 : units b ≠ 0) :
    fdiv a b = signedAs a b 0x00000000#32 := by
  obtain ⟨m, k, -, hva, hua⟩ := floatVal_of_isFinite ha
  obtain ⟨n, j, -, hvb, hub⟩ := floatVal_of_isFinite hb
  obtain rfl := (units_eq_zero_iff hua).mp h0
  have hq : quotientBits 0 n = 0 := by simp [quotientBits]
  rw [fdiv, hva, hvb, signedAs_zero]
  simp only [mt (units_eq_zero_iff hub).mpr h1, if_false, hq, roundFloat_zero]

theorem fdiv_zero_divisor {a b : F32} (ha : isFinite a) (hb : isFinite b) (h1 : units b = 0) :
    fdiv a b = if units a = 0 then floatNan else signedAs a b 0x7F800000#32 := by
  obtain ⟨m, k, -, hva, hua⟩ := floatVal_of_isFinite ha
  obtain ⟨n, j, -, hvb, hub⟩ := floatVal_of_isFinite hb
  rw [fdiv, hva, hvb, signedAs_inf]
  simp only [(units_eq_zero_iff hub).mp h1, if_true, units_eq_zero_iff hua]

/-- Settles O60, by the class of each operand. -/
theorem floatMulDivRoundToNearest : Obligations.FloatMulDivRoundToNearest := by
  unfold Obligations.FloatMulDivRoundToNearest
  intro a b
  refine ⟨fun ha hb => ⟨fmul_roundsTo ha hb, fmul_zero_product ha hb, fdiv_roundsTo ha hb, fdiv_zero_dividend ha hb,
    fun h0 h1 => ?_, fun h0 h1 => ?_⟩, fun h => ?_, fun ha hb => ⟨fun h => ?_, fun h => ?_, fdiv_infinite_finite ha hb⟩,
    fun ha hb => ⟨fun h => ?_, fun h => ?_, fdiv_finite_infinite ha hb⟩,
    fun ha hb => ⟨fmul_infinite_infinite ha hb, ?_⟩⟩
  · rw [fdiv_zero_divisor ha hb h1, if_neg h0]
  · rw [fdiv_zero_divisor ha hb h1, if_pos h0]
    exact isNan_floatNan
  · rw [fmul_of_isNan h, fdiv_of_isNan h]
    exact ⟨isNan_floatNan, isNan_floatNan⟩
  · rw [fmul_infinite_finite ha hb, if_neg h]
  · rw [fmul_infinite_finite ha hb, if_pos h]
    exact isNan_floatNan
  · rw [fmul_finite_infinite ha hb, if_neg h]
  · rw [fmul_finite_infinite ha hb, if_pos h]
    exact isNan_floatNan
  · rw [fdiv_infinite_infinite ha hb]
    exact isNan_floatNan

end Sys2Proof.Proofs
end

section
/-! PROOF. One step by the turn at the head of the agenda, and what each turn can do: the rules the statements about the register
block go through (10_state.md R30). -/

namespace Sys2Proof.Proofs

open Machine Machine.Memory

/-! ## The turn -/

/-- A step takes the turn at the head of the agenda. -/
theorem step_of_agenda {s : State} {turn : Turn} {rest : List Turn} (h : s.agenda = turn :: rest) :
    step s = takeTurn turn { s with agenda := rest } := by
  simp only [step, State.nextTurn, h]

theorem step_of_engineNext {s : State} {rest : List Turn} (h : s.engineNext rest) :
    step s = engineTurn { s with agenda := rest } := by
  rcases h with h | ⟨h, rfl⟩
  · exact step_of_agenda h
  · simp only [step, State.nextTurn, h, takeTurn]
    rw [← h]

theorem step_of_host {s : State} {access : HostAccess} {rest : List Turn} (h : s.agenda = .host access :: rest) :
    step s = { s with agenda := rest }.hostAccess access := step_of_agenda h

theorem step_of_powerOn {s : State} {rest : List Turn} (h : s.agenda = .powerOn :: rest) :
    step s = .next { s with agenda := rest }.powerOn := step_of_agenda h

/-- Every state has a next turn: the engine's, the host's or a power-on (10_state.md R30). -/
theorem agenda_cases (s : State) :
    (∃ rest, s.engineNext rest) ∨ (∃ access rest, s.agenda = .host access :: rest) ∨ (∃ rest, s.agenda = .powerOn :: rest) := by
  match h : s.agenda with
  | [] => exact .inl ⟨[], .inr ⟨h, rfl⟩⟩
  | .engine :: rest => exact .inl ⟨rest, .inl h⟩
  | .host access :: rest => exact .inr (.inl ⟨access, rest, rfl⟩)
  | .powerOn :: rest => exact .inr (.inr ⟨rest, rfl⟩)

/-! ## The engine's turn -/

/-- The engine passes, or its command step ends with an error, or with success and some memory (10_state.md R46). -/
theorem engineTurn_outcomes (s : State) :
    (s.busy = false ∧ engineTurn s = .next s) ∨ (s.busy = true ∧ ∃ e, engineTurn s = .next (s.fail e)) ∨
      (s.busy = true ∧ ∃ m, engineTurn s = .next (s.succeeded m)) := by
  rcases engineTurn_cases s with h | ⟨hb, i, -, hi⟩ | ⟨hb, e, -, he⟩
  · exact .inl h
  · rw [hi]
    rcases exec_cases i s with ⟨e, h⟩ | ⟨-, h⟩
    · exact .inr (.inl ⟨hb, e, h⟩)
    · exact .inr (.inr ⟨hb, _, h⟩)
  · exact .inr (.inl ⟨hb, _, he⟩)

theorem engineTurn_next (s : State) : ∃ t, engineTurn s = .next t := by
  rcases engineTurn_outcomes s with ⟨-, h⟩ | ⟨-, e, h⟩ | ⟨-, m, h⟩ <;> exact ⟨_, h⟩

theorem engineTurn_of_idle {s : State} (h : s.busy = false) : engineTurn s = .next s := by
  simp [engineTurn, h]

theorem engineTurn_of_decode {s : State} {i : Instr} (hb : s.busy = true) (hd : decode s.cmd = .ok i) :
    engineTurn s = exec i s := by
  simp [engineTurn, State.commandWord, hb, hd]

/-! ## The shapes of a host access -/

theorem registerShape_iff {offset : Nat} {w : Width} : registerShape offset w = true ↔ w = .word ∧ offset % 4 = 0 := by
  cases w <;> simp [registerShape, aligned, Width.bytes]

theorem memoryShape_iff {size addr : Nat} {w : Width} :
    (aligned addr w && inMemory size addr w) = true ↔ addr % w.bytes = 0 ∧ addr + w.bytes ≤ size := by
  simp [aligned, inMemory, Nat.ble_eq]

theorem accessAllowed_regRead {s : State} {o : BitVec 8} {w : Width} :
    s.accessAllowed (.regRead o w) = true ↔ w = .word ∧ o.toNat % 4 = 0 := registerShape_iff

theorem accessAllowed_regWrite {s : State} {o : BitVec 8} {w : Width} {v : Word} :
    s.accessAllowed (.regWrite o w v) = true ↔ w = .word ∧ o.toNat % 4 = 0 := registerShape_iff

theorem accessAllowed_memRead {s : State} {addr : Word} {w : Width} :
    s.accessAllowed (.memRead addr w) = true ↔ addr.toNat % w.bytes = 0 ∧ addr.toNat + w.bytes ≤ s.cfg.dmemSize :=
  memoryShape_iff

theorem accessAllowed_memWrite {s : State} {addr : Word} {w : Width} {v : Word} :
    s.accessAllowed (.memWrite addr w v) = true ↔ addr.toNat % w.bytes = 0 ∧ addr.toNat + w.bytes ≤ s.cfg.dmemSize :=
  memoryShape_iff

/-! ## The host's turn at the register block -/

/-- A register write that goes through is an aligned word access (10_state.md R33). -/
theorem shape_of_regWrite_next {s t : State} {o : BitVec 8} {w : Width} {v : Word}
    (h : s.hostAccess (.regWrite o w v) = .next t) : w = .word ∧ o.toNat % 4 = 0 := by
  simp only [State.hostAccess] at h
  split at h
  · next hok => exact accessAllowed_regWrite.mp hok
  · cases h

/-- An aligned word read of the register block goes through, pending command or not (10_state.md R45). -/
theorem step_regRead {s : State} {o : BitVec 8} {rest : List Turn} (h : s.agenda = .host (.regRead o .word) :: rest)
    (ho : o.toNat % 4 = 0) : step s = .next { s with agenda := rest, hostData := s.readReg o } := by
  rw [step_of_host h]
  exact if_pos (accessAllowed_regRead.mpr ⟨rfl, ho⟩)

theorem step_regWrite {s : State} {o : BitVec 8} {v : Word} {rest : List Turn}
    (h : s.agenda = .host (.regWrite o .word v) :: rest) (ho : o.toNat % 4 = 0) :
    step s = .next ({ s with agenda := rest }.writeReg o v) := by
  rw [step_of_host h]
  exact if_pos (accessAllowed_regWrite.mpr ⟨rfl, ho⟩)

theorem writeReg_of_busy {s : State} {o : BitVec 8} (v : Word) (hctrl : o ≠ 0x08#8) (hstatus : o ≠ 0x0C#8)
    (hb : s.busy = true) : s.writeReg o v = s := by
  simp [State.writeReg, hctrl, hstatus, hb]

theorem writeReg_of_idle {s : State} {o : BitVec 8} (v : Word) (hctrl : o ≠ 0x08#8) (hstatus : o ≠ 0x0C#8)
    (hb : s.busy = false) : s.writeReg o v = s.writeOperand o v := by
  simp [State.writeReg, hctrl, hstatus, hb]

theorem step_writeCtrl {s : State} {v : Word} {rest : List Turn} (h : s.agenda = .host (.regWrite 0x08#8 .word v) :: rest) :
    step s = .next ({ s with agenda := rest }.writeCtrl v) := step_regWrite h (by decide)

theorem step_writeStatus {s : State} {v : Word} {rest : List Turn} (h : s.agenda = .host (.regWrite 0x0C#8 .word v) :: rest) :
    step s = .next ({ s with agenda := rest }.acknowledge v) := step_regWrite h (by decide)

theorem step_writeOperand {s : State} {o : BitVec 8} {v : Word} {rest : List Turn}
    (h : s.agenda = .host (.regWrite o .word v) :: rest) (ho : o.toNat % 4 = 0) (hb : s.busy = false) (hctrl : o ≠ 0x08#8)
    (hstatus : o ≠ 0x0C#8) : step s = .next ({ s with agenda := rest }.writeOperand o v) := by
  rw [step_regWrite h ho, writeReg_of_idle (s := { s with agenda := rest }) v hctrl hstatus hb]

/-! ## The registers a write leaves alone -/

@[simp] theorem writeOperand_busy (s : State) (o : BitVec 8) (v : Word) : (s.writeOperand o v).busy = s.busy := by
  unfold State.writeOperand; split <;> rfl

@[simp] theorem writeOperand_mem (s : State) (o : BitVec 8) (v : Word) : (s.writeOperand o v).mem = s.mem := by
  unfold State.writeOperand; split <;> rfl

theorem softReset_mem_of_idle {s : State} (h : s.busy = false) : s.softReset.mem = s.mem := by
  simp [State.softReset, State.pendingPlan, h]

theorem registersReset_reset : State.reset.registersReset :=
  ⟨rfl, rfl, rfl, rfl, rfl, rfl, rfl, rfl, rfl, rfl, rfl, rfl, rfl, rfl, rfl, rfl, rfl⟩

theorem registersReset_powerOn (s : State) : s.powerOn.registersReset := registersReset_reset

theorem registersReset_softReset (s : State) : s.softReset.registersReset := by
  rcases softReset_cases s with ⟨-, h⟩ | ⟨p, -, h⟩ <;> rw [h] <;> exact registersReset_reset

@[simp] theorem softReset_cfg (s : State) : s.softReset.cfg = s.cfg := by
  rcases softReset_cases s with ⟨-, h⟩ | ⟨p, -, h⟩ <;> rw [h] <;> rfl

/-! ## One step -/

/-- What a step that answers a next state can have been: the engine's turn, a power-on, a read by the host, a register write, or
a write of data memory (10_state.md R30). -/
theorem step_next_cases {s t : State} (h : step s = .next t) :
    (∃ rest, s.engineNext rest ∧ engineTurn { s with agenda := rest } = .next t) ∨
    (∃ rest, s.agenda = .powerOn :: rest ∧ t = { s with agenda := rest }.powerOn) ∨
    (∃ rest d, t = { s with agenda := rest, hostData := d }) ∨
    (∃ o v rest, s.agenda = .host (.regWrite o .word v) :: rest ∧ t = { s with agenda := rest }.writeReg o v) ∨
    (∃ b w v rest, s.agenda = .host (.memWrite b w v) :: rest ∧
      t = { s with agenda := rest, mem := writeCells s.mem (cellsLE b.toNat (v.toNat : Int) w.bytes) }) := by
  rcases agenda_cases s with ⟨rest, hturn⟩ | ⟨access, rest, hturn⟩ | ⟨rest, hturn⟩
  · exact .inl ⟨rest, hturn, step_of_engineNext hturn ▸ h⟩
  · rw [step_of_host hturn] at h
    rcases hostAccess_next_cases h with ⟨o, w, rfl, rfl⟩ | ⟨o, w, v, rfl, rfl⟩ | ⟨b, w, rfl, -, -, rfl⟩ |
      ⟨b, w, v, rfl, -, -, rfl⟩
    · exact .inr (.inr (.inl ⟨rest, _, rfl⟩))
    · obtain ⟨rfl, -⟩ := shape_of_regWrite_next h
      exact .inr (.inr (.inr (.inl ⟨o, v, rest, hturn, rfl⟩)))
    · exact .inr (.inr (.inl ⟨rest, _, rfl⟩))
    · exact .inr (.inr (.inr (.inr ⟨b, w, v, rest, hturn, rfl⟩)))
  · rw [step_of_powerOn hturn] at h
    cases h
    exact .inr (.inl ⟨rest, hturn, rfl⟩)

end Sys2Proof.Proofs
end

section
/-! PROOF. What the host port refuses: a lemma for each kind of access, and no refusal at any other turn (O16). -/

namespace Sys2Proof.Proofs

open Machine

/-- A check that guards an outcome which is no refusal refuses exactly where it fails. -/
theorem guarded_refused_iff {c : Bool} {P : Prop} (hc : c = true ↔ P) {o : Host.Outcome State Fault Refusal} {q r : Refusal}
    (ho : o ≠ .refused r) : (if c then o else .refused q) = .refused r ↔ r = q ∧ ¬ P := by
  cases c <;> simp_all [eq_comm]

theorem regRead_refused_iff {s : State} {o : BitVec 8} {w : Width} {r : Refusal} :
    s.hostAccess (.regRead o w) = .refused r ↔ r = .registerAccess ∧ (w ≠ .word ∨ o.toNat % 4 ≠ 0) := by
  rw [← Classical.not_and_iff_not_or_not]
  exact guarded_refused_iff accessAllowed_regRead (by simp)

theorem regWrite_refused_iff {s : State} {o : BitVec 8} {w : Width} {v : Word} {r : Refusal} :
    s.hostAccess (.regWrite o w v) = .refused r ↔ r = .registerAccess ∧ (w ≠ .word ∨ o.toNat % 4 ≠ 0) := by
  rw [← Classical.not_and_iff_not_or_not]
  exact guarded_refused_iff accessAllowed_regWrite (by simp)

theorem memRead_refused_iff {s : State} {a : Word} {w : Width} {r : Refusal} :
    s.hostAccess (.memRead a w) = .refused r ↔
      r = .memoryAccess ∧ (a.toNat % w.bytes ≠ 0 ∨ s.cfg.dmemSize < a.toNat + w.bytes) := by
  rw [← Nat.not_le, ← Classical.not_and_iff_not_or_not]
  exact guarded_refused_iff accessAllowed_memRead (by split <;> simp)

theorem memWrite_refused_iff {s : State} {a : Word} {w : Width} {v : Word} {r : Refusal} :
    s.hostAccess (.memWrite a w v) = .refused r ↔
      r = .memoryAccess ∧ (a.toNat % w.bytes ≠ 0 ∨ s.cfg.dmemSize < a.toNat + w.bytes) := by
  rw [← Nat.not_le, ← Classical.not_and_iff_not_or_not]
  exact guarded_refused_iff accessAllowed_memWrite (by split <;> simp)

/-- Only a host access is refused. -/
theorem host_of_step_refused {s : State} {r : Refusal} (h : step s = .refused r) :
    ∃ access rest, s.agenda = .host access :: rest ∧ { s with agenda := rest }.hostAccess access = .refused r := by
  rcases agenda_cases s with ⟨rest, hturn⟩ | ⟨access, rest, hturn⟩ | ⟨rest, hturn⟩
  · obtain ⟨t, ht⟩ := engineTurn_next { s with agenda := rest }
    cases h.symm.trans ((step_of_engineNext hturn).trans ht)
  · exact ⟨access, rest, hturn, step_of_host hturn ▸ h⟩
  · cases h.symm.trans (step_of_powerOn hturn)

/-- Settles O16, by the kind of access. -/
theorem refusedAccesses : Obligations.RefusedAccesses := by
  unfold Obligations.RefusedAccesses
  intro s r
  constructor
  · intro h
    obtain ⟨access, rest, hturn, hr⟩ := host_of_step_refused h
    refine ⟨rest, ?_⟩
    cases access with
    | regRead o w =>
      obtain ⟨hr, hshape⟩ := regRead_refused_iff.mp hr
      exact .inl ⟨hr, o, w, .inl hturn, hshape⟩
    | regWrite o w v =>
      obtain ⟨hr, hshape⟩ := regWrite_refused_iff.mp hr
      exact .inl ⟨hr, o, w, .inr ⟨v, hturn⟩, hshape⟩
    | memRead a w =>
      obtain ⟨hr, hshape⟩ := memRead_refused_iff.mp hr
      exact .inr ⟨hr, a, w, .inl hturn, hshape⟩
    | memWrite a w v =>
      obtain ⟨hr, hshape⟩ := memWrite_refused_iff.mp hr
      exact .inr ⟨hr, a, w, .inr ⟨v, hturn⟩, hshape⟩
  · rintro ⟨rest, ⟨hr, o, w, hturn | ⟨v, hturn⟩, hshape⟩ | ⟨hr, a, w, hturn | ⟨v, hturn⟩, hshape⟩⟩ <;>
      rw [step_of_host hturn]
    · exact regRead_refused_iff.mpr ⟨hr, hshape⟩
    · exact regWrite_refused_iff.mpr ⟨hr, hshape⟩
    · exact memRead_refused_iff.mpr ⟨hr, hshape⟩
    · exact memWrite_refused_iff.mpr ⟨hr, hshape⟩

end Sys2Proof.Proofs
end

section
/-! PROOF. The command step: which command runs, and what it reports in `STATUS` (O17, O4, O5). -/

namespace Sys2Proof.Proofs

open Machine

/-- The codes of the checks that depend on the registers (60_exceptions.md R401, checks 3 to 6). -/
theorem code_mem_of_check {p : Plan} {size : Nat} {e : CmdError} (h : p.check size = some e) :
    e.code.toNat ∈ [0, 3, 4, 5, 6, 7] := by
  rcases check_some_cases h with ⟨rfl, -⟩ | ⟨rfl, -⟩ | ⟨rfl, -⟩ | ⟨rfl, -⟩ <;> decide

theorem fail_eq (s : State) (e : CmdError) :
    s.fail e = { s with busy := false, done := true, err := e.code != 0#8, errCode := e.code, mem := s.mem } := by
  cases e <;> rfl

/-- Settles O17, by the three ends of a command step. -/
theorem commandsReportInStatus : Obligations.CommandsReportInStatus := by
  unfold Obligations.CommandsReportInStatus
  intro s i
  rw [exec_eq_runCommand]
  rcases runCommand_cases (plan s i) (dataCheck i) (outputCells i) s with ⟨e, he, h⟩ | ⟨-, -, h⟩ | ⟨-, -, h⟩
  · exact ⟨e.code, s.mem, h.trans (congrArg _ (fail_eq s e)), code_mem_of_check he⟩
  · exact ⟨7#8, s.mem, h, by decide⟩
  · exact ⟨0#8, _, h, by decide⟩

/-- Settles O4. -/
theorem stepRunsDecodedCommand : Obligations.StepRunsDecodedCommand := by
  unfold Obligations.StepRunsDecodedCommand
  intro s rest h
  rw [step_of_engineNext h]
  exact ⟨fun i hb hd => engineTurn_of_decode hb hd, fun hb => engineTurn_of_idle hb⟩

/-- Settles O5: the placed state has the engine's turn first, a command pending and the word in `CMD`. -/
theorem placedCommandRunsNext : Obligations.PlacedCommandRunsNext := by
  unfold Obligations.PlacedCommandRunsNext
  intro s w i hw hd
  have hword : s.withFetchWord 32 w = s.placeCommand (BitVec.ofNat 32 w) := by
    exact congrArg (fun n => s.placeCommand (BitVec.ofNat 32 n)) (Nat.mod_eq_of_lt hw)
  have hturn : (s.placeCommand (BitVec.ofNat 32 w)).engineNext s.agenda := .inl rfl
  rw [hword, step_of_engineNext hturn]
  exact engineTurn_of_decode rfl hd

end Sys2Proof.Proofs
end

section
/-! PROOF. The register block at the host port: `CTRL`, `STATUS`, the operand registers and the read-only ones (O6 to O9). -/

namespace Sys2Proof.Proofs

open Machine

/-! ## `STATUS` -/

/-- The four fields of `STATUS` share no bit (10_state.md R39). -/
theorem toNat_statusWord (s : State) :
    s.statusWord.toNat = s.busy.toNat + 2 * s.done.toNat + 4 * s.err.toNat + 256 * s.errCode.toNat := by
  have := s.errCode.isLt
  unfold State.statusWord
  cases s.busy <;> cases s.done <;> cases s.err <;> simp [bitAt] <;> omega

/-- A bit of a word is the parity of what stands from it on. -/
theorem getLsbD_eq_of_toNat {x : Word} {k : Nat} {b : Bool} (h : x.toNat / 2 ^ k % 2 = b.toNat) : x.getLsbD k = b := by
  rw [BitVec.getLsbD, Nat.testBit_eq_decide_div_mod_eq, h]
  cases b <;> rfl

theorem extractLsb'_eq_of_toNat {x : Word} {k n : Nat} {y : BitVec n} (h : x.toNat / 2 ^ k % 2 ^ n = y.toNat) :
    x.extractLsb' k n = y := by
  refine BitVec.eq_of_toNat_eq ?_
  rw [BitVec.extractLsb'_toNat, Nat.shiftRight_eq_div_pow, h]

/-- Settles O7: the fields of the word read, one by one, from its value as a sum. -/
theorem statusRegister : Obligations.StatusRegister := by
  unfold Obligations.StatusRegister
  intro s rest
  refine ⟨fun h => ⟨s.statusWord, step_regRead h (by decide), ?_⟩, fun v h => step_writeStatus h⟩
  have hword := toNat_statusWord s
  have hbusy := s.busy.toNat_lt
  have hdone := s.done.toNat_lt
  have herr := s.err.toNat_lt
  have hcode := s.errCode.isLt
  exact ⟨getLsbD_eq_of_toNat (by omega), getLsbD_eq_of_toNat (by omega), getLsbD_eq_of_toNat (by omega),
    extractLsb'_eq_of_toNat (by omega), extractLsb'_eq_of_toNat (by change _ = 0; omega),
    extractLsb'_eq_of_toNat (by change _ = 0; omega)⟩

/-! ## `CTRL` -/

theorem ctrlWord_eq (s : State) : s.ctrlWord = if s.irqEn then 0x2#32 else 0x0#32 := by
  unfold State.ctrlWord
  cases s.irqEn <;> rfl

theorem writeCtrl_srst {s : State} {v : Word} (h : v.getLsbD 2 = true) : s.writeCtrl v = s.softReset := if_pos h

/-- A `START` that takes effect (10_state.md R38). -/
theorem writeCtrl_start {s : State} {v : Word} (hsrst : v.getLsbD 2 = false) (hstart : v.getLsbD 0 = true)
    (hb : s.busy = false) : s.writeCtrl v = { s with irqEn := v.getLsbD 1 }.begin := by
  simp only [State.writeCtrl, hsrst, hstart, hb, Bool.false_eq_true, if_false, Bool.not_false, Bool.and_self, if_true]

/-- A write without `SRST` and without a `START` that takes effect (10_state.md R38). -/
theorem writeCtrl_no_start {s : State} {v : Word} (hsrst : v.getLsbD 2 = false)
    (hno : v.getLsbD 0 = false ∨ s.busy = true) : s.writeCtrl v = { s with irqEn := v.getLsbD 1 } := by
  rcases hno with h | h <;>
    simp only [State.writeCtrl, hsrst, h, Bool.false_eq_true, if_false, Bool.false_and, Bool.not_true, Bool.and_false]

/-- Settles O6. -/
theorem controlRegister : Obligations.ControlRegister := by
  unfold Obligations.ControlRegister
  intro s rest
  refine ⟨fun v h => ?_, fun h => ?_⟩
  · rw [step_writeCtrl h]
    refine ⟨fun hsrst _ => ?_, fun hsrst hstart hb => ?_, fun hsrst hno => ?_⟩
    · rw [writeCtrl_srst hsrst]
    · rw [writeCtrl_start (s := { s with agenda := rest }) hsrst hstart hb]; rfl
    · rw [writeCtrl_no_start (s := { s with agenda := rest }) hsrst hno]
  · rw [← ctrlWord_eq]
    exact step_regRead h (by decide)

/-! ## The other offsets -/

/-- A reserved offset reads 0 (10_state.md R33). -/
theorem readReg_reserved (s : State) {o : BitVec 8} (h : 0x40 ≤ o.toNat) : s.readReg o = 0#32 := by
  unfold State.readReg
  split
  case h_17 => rfl
  all_goals omega

/-- `ID`, `CAP` and the reserved offsets ignore a write (10_state.md R33, R34). -/
theorem writeOperand_readOnly (s : State) {o : BitVec 8} (v : Word) (h : o = 0x00#8 ∨ o = 0x04#8 ∨ 0x40 ≤ o.toNat) :
    s.writeOperand o v = s := by
  rcases h with rfl | rfl | h
  · rfl
  · rfl
  · unfold State.writeOperand
    split
    case h_13 => rfl
    all_goals omega

/-- Settles O8: the word read at each offset is the register's. -/
theorem registerReads : Obligations.RegisterReads := by
  unfold Obligations.RegisterReads
  intro s rest o h ho
  refine ⟨s.readReg o, step_regRead h ho, ?_, ?_, ?_, ?_, ?_, ?_, ?_, ?_, ?_, ?_, ?_, ?_, ?_, ?_, readReg_reserved s⟩
  case refine_14 =>
    rintro rfl
    have hlt := s.nrows.isLt
    have hrows : (s.readReg 0x3C#8).toNat = s.nrows.toNat :=
      (BitVec.toNat_ofNat ..).trans (Nat.mod_eq_of_lt (by omega))
    exact ⟨extractLsb'_eq_of_toNat (by omega), extractLsb'_eq_of_toNat (by change _ = 0; omega)⟩
  all_goals rintro rfl; rfl

/-- Settles O9: the write at each offset changes that offset's register. -/
theorem operandWrites : Obligations.OperandWrites := by
  unfold Obligations.OperandWrites
  intro s rest o v h ho hb
  refine ⟨?_, ?_, ?_, ?_, ?_, ?_, ?_, ?_, ?_, ?_, ?_, ?_, fun hro => ?_⟩
  case refine_13 =>
    have hctrl : o ≠ 0x08#8 := by rintro rfl; simp at hro
    have hstatus : o ≠ 0x0C#8 := by rintro rfl; simp at hro
    rw [step_writeOperand h ho hb hctrl hstatus, writeOperand_readOnly _ v hro]
  all_goals rintro rfl; exact step_writeOperand h ho hb (by decide) (by decide)

end Sys2Proof.Proofs
end

section
/-! PROOF. Rules over every step: operands are held while a command is pending, the interrupt line, `BUSY`, data memory, and the
registers after a reset (O10 to O12, O23 to O25). -/

namespace Sys2Proof.Proofs

open Machine Machine.Memory

theorem sameOperands_refl (s : State) : s.sameOperands s :=
  ⟨rfl, rfl, rfl, rfl, rfl, rfl, rfl, rfl, rfl, rfl, rfl, rfl, rfl⟩

theorem sameOperands_engineTurn {s t : State} (h : engineTurn s = .next t) : s.sameOperands t := by
  rcases engineTurn_outcomes s with ⟨-, hx⟩ | ⟨-, e, hx⟩ | ⟨-, m, hx⟩ <;> cases hx.symm.trans h <;>
    exact sameOperands_refl s

theorem sameOperands_writeCtrl (s : State) {v : Word} (h : v.getLsbD 2 = false) : s.sameOperands (s.writeCtrl v) := by
  rcases writeCtrl_cases s v with ⟨hsrst, -⟩ | ⟨-, -, -, hx⟩ | ⟨-, -, hx⟩
  · cases h.symm.trans hsrst
  · rw [hx]; exact sameOperands_refl s
  · rw [hx]; exact sameOperands_refl s

/-- A register write to a pending command holds the operands, unless it is a soft reset (10_state.md R45). -/
theorem sameOperands_writeReg {s : State} (hb : s.busy = true) {o : BitVec 8} {v : Word}
    (h : o = 0x08#8 → v.getLsbD 2 = false) : s.sameOperands (s.writeReg o v) := by
  rcases writeReg_cases s o v with ⟨ho, hx⟩ | ⟨-, hx⟩ | ⟨-, -, -, hx⟩ | ⟨-, -, hidle, -⟩
  · rw [hx]; exact sameOperands_writeCtrl s (h ho)
  · rw [hx]; exact sameOperands_refl s
  · rw [hx]; exact sameOperands_refl s
  · simp [hb] at hidle

/-- Settles O10: the step lemma by the kind of step. -/
theorem operandsHeldWhileBusy : Obligations.OperandsHeldWhileBusy := by
  unfold Obligations.OperandsHeldWhileBusy
  intro s hb
  refine ⟨fun rest o v h ho hctrl hstatus => ?_, fun rest o h ho => step_regRead h ho, fun t hstep hpower hsrst => ?_⟩
  · rw [step_regWrite h ho, writeReg_of_busy (s := { s with agenda := rest }) v hctrl hstatus hb]
  · rcases step_next_cases hstep with ⟨rest, -, ht⟩ | ⟨rest, h, -⟩ | ⟨rest, d, rfl⟩ | ⟨o, v, rest, h, rfl⟩ |
      ⟨b, w, v, rest, -, rfl⟩
    · exact sameOperands_engineTurn (s := { s with agenda := rest }) ht
    · exact absurd h (hpower rest)
    · exact sameOperands_refl s
    · exact sameOperands_writeReg (s := { s with agenda := rest }) hb fun ho => hsrst rest .word v (ho ▸ h)
    · exact sameOperands_refl s

/-! ## The interrupt line -/

theorem irq_iff (s : State) : s.irq = true ↔ s.irqEn = true ∧ s.done = true := by simp [State.irq]

theorem irq_of_done {s : State} (h : s.done = true) : s.irq = s.irqEn := by simp [State.irq, h]

theorem irq_of_not_done {s : State} (h : s.done = false) : s.irq = false := by simp [State.irq, h]

theorem irq_of_not_enabled {s : State} (h : s.irqEn = false) : s.irq = false := by simp [State.irq, h]

theorem irq_of_registersReset {s : State} (h : s.registersReset) : s.irq = false := irq_of_not_enabled h.1

/-- A command step raises the line where it is enabled (60_exceptions.md R410). -/
theorem irq_engineTurn {s t : State} (hb : s.busy = true) (h : engineTurn s = .next t) : t.irq = s.irqEn := by
  rcases engineTurn_outcomes s with ⟨hidle, -⟩ | ⟨-, e, hx⟩ | ⟨-, m, hx⟩
  · simp [hb] at hidle
  · cases hx.symm.trans h; exact irq_of_done rfl
  · cases hx.symm.trans h; exact irq_of_done rfl

/-- A successful `START`, a cleared `IRQ_EN` and `SRST` lower the line (60_exceptions.md R410). -/
theorem irq_writeCtrl {s : State} {v : Word}
    (h : (v.getLsbD 0 = true ∧ s.busy = false) ∨ v.getLsbD 1 = false ∨ v.getLsbD 2 = true) : (s.writeCtrl v).irq = false := by
  rcases writeCtrl_cases s v with ⟨-, hx⟩ | ⟨-, -, -, hx⟩ | ⟨hsrst, hno, hx⟩ <;> rw [hx]
  · exact irq_of_registersReset (registersReset_softReset s)
  · exact irq_of_not_done rfl
  · refine irq_of_not_enabled (show v.getLsbD 1 = false from ?_)
    rcases h with ⟨hstart, hb⟩ | h | h
    · rw [hstart, hb] at hno
      simp at hno
    · exact h
    · cases hsrst.symm.trans h

/-- Settles O11. -/
theorem interruptLine : Obligations.InterruptLine := by
  unfold Obligations.InterruptLine
  refine fun s => ⟨irq_iff s, fun rest t h hb hstep => ?_, fun rest v t h hv hstep => ?_, fun rest v t h hstep hlow => ?_,
    fun rest v t h hstep hstart hsrst => ?_, fun rest t h hstep => ?_⟩
  · exact irq_engineTurn (s := { s with agenda := rest }) hb ((step_of_engineNext h).symm.trans hstep)
  · cases (step_writeStatus h).symm.trans hstep
    exact irq_of_not_done (by simp [hv])
  · cases (step_writeCtrl h).symm.trans hstep
    exact irq_writeCtrl hlow
  · cases (step_writeCtrl h).symm.trans hstep
    rw [writeCtrl_no_start hsrst (.inl hstart)]
  · cases (step_of_powerOn h).symm.trans hstep
    exact irq_of_registersReset (registersReset_powerOn _)

/-! ## `BUSY` -/

/-- Of the register writes only a `START` without `SRST` raises `BUSY` (10_state.md R38). -/
theorem start_of_busy_writeReg {s : State} {o : BitVec 8} {v : Word} (hs : s.busy = false) (ht : (s.writeReg o v).busy = true) :
    o = 0x08#8 ∧ v.getLsbD 0 = true ∧ v.getLsbD 2 = false := by
  rcases writeReg_cases s o v with ⟨ho, hx⟩ | ⟨-, hx⟩ | ⟨-, -, -, hx⟩ | ⟨-, -, -, hx⟩ <;> rw [hx] at ht
  · rcases writeCtrl_cases s v with ⟨-, hy⟩ | ⟨hsrst, hstart, -, -⟩ | ⟨-, -, hy⟩
    · obtain ⟨-, hreset, -⟩ := registersReset_softReset s
      simp [hy, hreset] at ht
    · exact ⟨ho, hstart, hsrst⟩
    · simp [hy, hs] at ht
  · simp [hs] at ht
  · simp [hs] at ht
  · simp [hs] at ht

/-- Of the register writes only a soft reset lowers `BUSY` (10_state.md R39, R45). -/
theorem srst_of_idle_writeReg {s : State} {o : BitVec 8} {v : Word} (hs : s.busy = true) (ht : (s.writeReg o v).busy = false) :
    o = 0x08#8 ∧ v.getLsbD 2 = true := by
  rcases writeReg_cases s o v with ⟨ho, hx⟩ | ⟨-, hx⟩ | ⟨-, -, -, hx⟩ | ⟨-, -, hidle, -⟩
  · rw [hx] at ht
    rcases writeCtrl_cases s v with ⟨hsrst, -⟩ | ⟨-, -, hidle, -⟩ | ⟨-, -, hy⟩
    · exact ⟨ho, hsrst⟩
    · simp [hs] at hidle
    · simp [hy, hs] at ht
  · simp [hx, hs] at ht
  · simp [hx, hs] at ht
  · simp [hs] at hidle

/-- Settles O24, by the kind of step. -/
theorem busyChanges : Obligations.BusyChanges := by
  unfold Obligations.BusyChanges
  intro s t hstep
  rcases step_next_cases hstep with ⟨rest, h, ht⟩ | ⟨rest, h, rfl⟩ | ⟨rest, d, rfl⟩ | ⟨o, v, rest, h, rfl⟩ |
    ⟨b, w, v, rest, -, rfl⟩
  · refine ⟨fun hs hbusy => ?_, fun _ _ => .inl ⟨rest, h⟩⟩
    cases (engineTurn_of_idle (s := { s with agenda := rest }) hs).symm.trans ht
    simp [hs] at hbusy
  · exact ⟨fun _ hbusy => absurd hbusy Bool.false_ne_true, fun _ _ => .inr (.inl ⟨rest, h⟩)⟩
  · exact ⟨fun hs hbusy => by simp [hs] at hbusy, fun hs hidle => by simp [hs] at hidle⟩
  · refine ⟨fun hs hbusy => ?_, fun hs hidle => ?_⟩
    · obtain ⟨rfl, hstart, hsrst⟩ := start_of_busy_writeReg (s := { s with agenda := rest }) hs hbusy
      exact ⟨v, rest, h, hstart, hsrst⟩
    · obtain ⟨rfl, hsrst⟩ := srst_of_idle_writeReg (s := { s with agenda := rest }) hs hidle
      exact .inr (.inr ⟨v, rest, h, hsrst⟩)
  · exact ⟨fun hs hbusy => by simp [hs] at hbusy, fun hs hidle => by simp [hs] at hidle⟩

/-! ## Data memory -/

/-- The engine changes data memory only by a command step that reports success (60_exceptions.md R402). -/
theorem engineTurn_mem {s t : State} (h : engineTurn s = .next t) : t.mem = s.mem ∨ (s.busy = true ∧ t.err = false) := by
  rcases engineTurn_outcomes s with ⟨-, hx⟩ | ⟨-, e, hx⟩ | ⟨hb, m, hx⟩ <;> cases hx.symm.trans h
  · exact .inl rfl
  · exact .inl rfl
  · exact .inr ⟨hb, rfl⟩

/-- A write of `CTRL` changes data memory only where it abandons a pending command (70_reset_and_hazards.md R451). -/
theorem writeCtrl_mem (s : State) (v : Word) : (s.writeCtrl v).mem = s.mem ∨ (s.busy = true ∧ v.getLsbD 2 = true) := by
  rcases writeCtrl_cases s v with ⟨hsrst, hx⟩ | ⟨-, -, -, hx⟩ | ⟨-, -, hx⟩ <;> rw [hx]
  · cases hb : s.busy
    · exact .inl (softReset_mem_of_idle hb)
    · exact .inr ⟨rfl, hsrst⟩
  · exact .inl rfl
  · exact .inl rfl

/-- A register write changes data memory only where it is a soft reset with a command pending. -/
theorem writeReg_mem (s : State) (o : BitVec 8) (v : Word) :
    (s.writeReg o v).mem = s.mem ∨ (s.busy = true ∧ o = 0x08#8 ∧ v.getLsbD 2 = true) := by
  rcases writeReg_cases s o v with ⟨ho, hx⟩ | ⟨-, hx⟩ | ⟨-, -, -, hx⟩ | ⟨-, -, -, hx⟩ <;> rw [hx]
  · exact (writeCtrl_mem s v).imp_right fun ⟨hb, hsrst⟩ => ⟨hb, ho, hsrst⟩
  · exact .inl rfl
  · exact .inl rfl
  · exact .inl (writeOperand_mem s o v)

/-- A byte outside a little-endian write is left alone (20_memory.md R84). -/
theorem read_cellsLE_other (m : Memory) {lo n a : Nat} (v : Int) (h : ¬ (lo ≤ a ∧ a < lo + n)) :
    read (writeCells m (cellsLE lo v n)) a = read m a :=
  read_writeCells_other _ _ fun _ hc hca => h (hca ▸ mem_cellsLE hc)

/-- Settles O25, by the kind of step. -/
theorem memoryChanges : Obligations.MemoryChanges := by
  unfold Obligations.MemoryChanges
  intro s t a hstep hne
  rcases step_next_cases hstep with ⟨rest, h, ht⟩ | ⟨rest, h, -⟩ | ⟨rest, d, rfl⟩ | ⟨o, v, rest, h, rfl⟩ |
    ⟨b, w, v, rest, h, rfl⟩
  · rcases engineTurn_mem ht with hm | ⟨hb, herr⟩
    · exact absurd (congrArg (read · a) hm) hne
    · exact .inl ⟨hb, ⟨rest, h⟩, herr⟩
  · exact .inr (.inr (.inl ⟨rest, h⟩))
  · exact absurd rfl hne
  · rcases writeReg_mem { s with agenda := rest } o v with hm | ⟨hb, rfl, hsrst⟩
    · exact absurd (congrArg (read · a) hm) hne
    · exact .inr (.inr (.inr ⟨hb, v, rest, h, hsrst⟩))
  · by_cases hin : b.toNat ≤ a ∧ a < b.toNat + w.bytes
    · exact .inr (.inl ⟨b, w, v, rest, h, hin⟩)
    · exact absurd (read_cellsLE_other s.mem _ hin) hne

/-! ## Reset -/

/-- Settles O12. -/
theorem registersAfterReset : Obligations.RegistersAfterReset := by
  unfold Obligations.RegistersAfterReset
  refine ⟨registersReset_reset, rfl, fun s rest => ⟨fun h => ?_, fun v h hsrst => ?_⟩⟩
  · exact ⟨_, step_of_powerOn h, registersReset_powerOn _, irq_of_registersReset (registersReset_powerOn _), rfl⟩
  · have hreset := registersReset_softReset { s with agenda := rest }
    refine ⟨_, step_writeCtrl h, ?_⟩
    rw [writeCtrl_srst hsrst]
    exact ⟨hreset, irq_of_registersReset hreset, softReset_cfg _⟩

/-- Settles O23: nothing is pending, no error stands and no byte is listed. -/
theorem invariantAtReset : Obligations.InvariantAtReset :=
  inv_of_quiet (by decide) rfl rfl rfl rfl rfl

end Sys2Proof.Proofs
end

section
/-! PROOF. The pending command at the memory port: which bytes are in its spans, what a host access returns or writes, where it
faults, and what the resets leave in data memory (O13, O14, O15). -/

namespace Sys2Proof.Proofs

open Machine Machine.Memory Claims

/-! ## The pending command -/

theorem pendingPlan_of_decode {s : State} {i : Instr} (hb : s.busy = true) (hd : decode s.cmd = .ok i) :
    s.pendingPlan = some (plan s i) := by
  simp [State.pendingPlan, hb, hd]

theorem pendingPlan_of_undecodable {s : State} {e : DecodeError} (hd : decode s.cmd = .error e) : s.pendingPlan = none := by
  simp [State.pendingPlan, hd]

theorem pendingPlan_eq_some {s : State} {p : Plan} (h : s.pendingPlan = some p) :
    s.busy = true ∧ ∃ i, decode s.cmd = .ok i ∧ p = plan s i := by
  unfold State.pendingPlan at h
  split at h
  · next hb =>
    split at h
    · next i hd => exact ⟨hb, i, hd, (Option.some.inj h).symm⟩
    · cases h
  · cases h

theorem spans_iff {r : Region} {a : Nat} : r.spans a = true ↔
    r.base ≤ (a : Int) ∧ (a : Int) < r.base + ((r.nrows : Int) - 1) * (r.stride : Int) + (r.rowbytes : Int) :=
  decide_eq_true_iff

/-- The model's test of the pending spans is the statements' `pendingByte`. -/
theorem pendingSpans_iff {s : State} {a : Nat} : s.pendingSpans a = true ↔ s.pendingByte a := by
  constructor
  · intro h
    unfold State.pendingSpans at h
    split at h
    · next p hp =>
      obtain ⟨hb, i, hd, rfl⟩ := pendingPlan_eq_some hp
      obtain ⟨r, hr, hspan⟩ := List.any_eq_true.mp h
      exact ⟨hb, i, hd, r, hr, spans_iff.mp hspan⟩
    · cases h
  · rintro ⟨hb, i, hd, r, hr, hspan⟩
    simp only [State.pendingSpans, pendingPlan_of_decode hb hd]
    exact List.any_eq_true.mpr ⟨r, hr, spans_iff.mpr hspan⟩

theorem accessHazard_iff {s : State} {addr : Nat} {w : Width} :
    s.accessHazard addr w = true ↔ ∃ k, k < w.bytes ∧ s.pendingByte (addr + k) := by
  simp [State.accessHazard, pendingSpans_iff]

theorem plan_agenda (s : State) (rest : List Turn) (i : Instr) : plan { s with agenda := rest } i = plan s i :=
  plan_sameOperands (sameOperands_refl s) i

/-- Whose turn comes later does not matter to the spans of the pending command. -/
theorem pendingByte_agenda {s : State} {rest : List Turn} {a : Nat} :
    State.pendingByte { s with agenda := rest } a ↔ s.pendingByte a := by
  simp only [State.pendingByte, plan_agenda]

/-- An access that touches no span of the pending command is no hazard when its turn comes. -/
theorem not_accessHazard {s : State} {rest : List Turn} {addr : Nat} {w : Width}
    (h : ∀ k, k < w.bytes → ¬ s.pendingByte (addr + k)) : ¬ State.accessHazard { s with agenda := rest } addr w = true := by
  simpa only [accessHazard_iff, pendingByte_agenda, not_exists, not_and] using h

/-! ## Little-endian values at the port -/

theorem mul_sum_map (c : Nat) (f : Nat → Nat) (l : List Nat) : c * (l.map f).sum = (l.map fun k => c * f k).sum := by
  induction l with
  | nil => rfl
  | cons x l ih => simp only [List.map_cons, List.sum_cons, Nat.mul_add, ih]

theorem readLE_eq_sum (m : Memory) (a n : Nat) :
    readLE m a n = ((List.range n).map fun k => (read m (a + k)).toNat * 2 ^ (8 * k)).sum := by
  induction n generalizing a with
  | zero => rfl
  | succ n ih =>
    have hterm : ∀ k,
        256 * ((read m (a + 1 + k)).toNat * 2 ^ (8 * k)) = (read m (a + (k + 1))).toNat * 2 ^ (8 * (k + 1)) := by
      intro k
      rw [Nat.add_right_comm a 1 k, Nat.mul_succ 8 k, Nat.pow_add, Nat.mul_comm 256, Nat.mul_assoc]; rfl
    rw [readLE, ih, mul_sum_map, List.range_succ_eq_map, List.map_cons, List.sum_cons, List.map_map]
    simp only [hterm, Function.comp_def, Nat.succ_eq_add_one, Nat.add_zero, Nat.mul_zero, Nat.pow_zero, Nat.mul_one]

theorem readLE_lt (m : Memory) (a n : Nat) : readLE m a n < 256 ^ n := by
  induction n generalizing a with
  | zero => exact Nat.one_pos
  | succ n ih =>
    have hlow : (read m a).toNat < 256 := (read m a).isLt
    have hhigh := ih (a + 1)
    rw [readLE, Nat.pow_succ]
    omega

/-- No host access is wider than the word its data is returned in. -/
theorem toNat_readLE_width (m : Memory) (a : Nat) (w : Width) :
    (BitVec.ofNat 32 (readLE m a w.bytes)).toNat = readLE m a w.bytes := by
  rw [BitVec.toNat_ofNat, Nat.mod_eq_of_lt]
  exact Nat.lt_of_lt_of_le (readLE_lt m a w.bytes) (by cases w <;> decide)

/-- Byte `k` of a little-endian write is read back (20_memory.md R81). -/
theorem read_cellsLE_same (m : Memory) (a : Nat) (v : Int) {n k : Nat} (hk : k < n) :
    read (writeCells m (cellsLE a v n)) (a + k) = toByte (asr v (8 * k)) := by
  refine read_writeCells_mem _ m ⟨_, mem_cellsLE_iff.mpr ⟨k, hk, rfl⟩, rfl⟩ fun c hc hca => ?_
  obtain ⟨j, -, rfl⟩ := mem_cellsLE_iff.mp hc
  rw [Nat.add_left_cancel hca]

theorem toByte_asr_word (v : Word) (k : Nat) : toByte (asr (v.toNat : Int) k) = v.extractLsb' k 8 := by
  apply BitVec.eq_of_toNat_eq
  apply Int.ofNat.inj
  rw [BitVec.extractLsb'_toNat, Nat.shiftRight_eq_div_pow]
  exact toNat_toByte _

/-! ## The host's turn at the memory port -/

theorem step_memRead {s : State} {a : Word} {w : Width} {rest : List Turn} (h : s.agenda = .host (.memRead a w) :: rest)
    (halign : a.toNat % w.bytes = 0) (hin : a.toNat + w.bytes ≤ s.cfg.dmemSize)
    (hfree : ∀ k, k < w.bytes → ¬ s.pendingByte (a.toNat + k)) :
    step s = .next { s with agenda := rest, hostData := BitVec.ofNat 32 (readLE s.mem a.toNat w.bytes) } := by
  rw [step_of_host h]
  exact (if_pos (accessAllowed_memRead.mpr ⟨halign, hin⟩)).trans (if_neg (not_accessHazard hfree))

theorem step_memWrite {s : State} {a : Word} {w : Width} {v : Word} {rest : List Turn}
    (h : s.agenda = .host (.memWrite a w v) :: rest) (halign : a.toNat % w.bytes = 0)
    (hin : a.toNat + w.bytes ≤ s.cfg.dmemSize) (hfree : ∀ k, k < w.bytes → ¬ s.pendingByte (a.toNat + k)) :
    step s = .next { s with agenda := rest, mem := writeCells s.mem (cellsLE a.toNat (v.toNat : Int) w.bytes) } := by
  rw [step_of_host h]
  exact (if_pos (accessAllowed_memWrite.mpr ⟨halign, hin⟩)).trans (if_neg (not_accessHazard hfree))

/-- Settles O14. -/
theorem memoryPort : Obligations.MemoryPort := by
  unfold Obligations.MemoryPort
  refine fun s rest a w halign hin hfree => ⟨fun h => ?_, fun v h => ?_⟩
  · exact ⟨_, step_memRead h halign hin hfree, (toNat_readLE_width ..).trans (readLE_eq_sum ..)⟩
  · refine ⟨_, step_memWrite h halign hin hfree, fun k hk => ?_, fun b hb => read_cellsLE_other s.mem _ (by omega)⟩
    rw [read_cellsLE_same s.mem _ _ hk, toByte_asr_word]

/-! ## Faults -/

/-- A hazard test behind the check of the shape faults exactly where both hold. -/
theorem guarded_fault_iff {allowed hazard : Bool} {P Q : Prop} (hP : allowed = true ↔ P) (hQ : hazard = true ↔ Q) {t : State}
    {q : Refusal} {f : Fault} :
    (if allowed then if hazard then Host.Outcome.fault Fault.hazard else .next t else .refused q) = .fault f ↔
      f = .hazard ∧ P ∧ Q := by
  cases allowed <;> cases hazard <;> simp_all [eq_comm]

theorem memRead_fault_iff {s : State} {a : Word} {w : Width} {f : Fault} : s.hostAccess (.memRead a w) = .fault f ↔
    f = .hazard ∧ (a.toNat % w.bytes = 0 ∧ a.toNat + w.bytes ≤ s.cfg.dmemSize) ∧
      ∃ k, k < w.bytes ∧ s.pendingByte (a.toNat + k) :=
  guarded_fault_iff accessAllowed_memRead accessHazard_iff

theorem memWrite_fault_iff {s : State} {a : Word} {w : Width} {v : Word} {f : Fault} :
    s.hostAccess (.memWrite a w v) = .fault f ↔
      f = .hazard ∧ (a.toNat % w.bytes = 0 ∧ a.toNat + w.bytes ≤ s.cfg.dmemSize) ∧
        ∃ k, k < w.bytes ∧ s.pendingByte (a.toNat + k) :=
  guarded_fault_iff accessAllowed_memWrite accessHazard_iff

/-- Only a host access faults. -/
theorem host_of_step_fault {s : State} {f : Fault} (h : step s = .fault f) :
    ∃ access rest, s.agenda = .host access :: rest ∧ { s with agenda := rest }.hostAccess access = .fault f := by
  rcases agenda_cases s with ⟨rest, hturn⟩ | ⟨access, rest, hturn⟩ | ⟨rest, hturn⟩
  · obtain ⟨t, ht⟩ := engineTurn_next { s with agenda := rest }
    cases h.symm.trans ((step_of_engineNext hturn).trans ht)
  · exact ⟨access, rest, hturn, step_of_host hturn ▸ h⟩
  · cases h.symm.trans (step_of_powerOn hturn)

theorem regRead_ne_fault (s : State) (o : BitVec 8) (w : Width) (f : Fault) : s.hostAccess (.regRead o w) ≠ .fault f := by
  simp only [State.hostAccess]; split <;> simp

theorem regWrite_ne_fault (s : State) (o : BitVec 8) (w : Width) (v : Word) (f : Fault) :
    s.hostAccess (.regWrite o w v) ≠ .fault f := by
  simp only [State.hostAccess]; split <;> simp

/-- Settles O15, by the kind of access. -/
theorem hazardsAreTheOnlyFaults : Obligations.HazardsAreTheOnlyFaults := by
  unfold Obligations.HazardsAreTheOnlyFaults
  intro s f
  constructor
  · intro h
    obtain ⟨access, rest, hturn, hf⟩ := host_of_step_fault h
    cases access with
    | regRead o w => exact absurd hf (regRead_ne_fault _ o w f)
    | regWrite o w v => exact absurd hf (regWrite_ne_fault _ o w v f)
    | memRead a w =>
      obtain ⟨hf, ⟨halign, hin⟩, k, hk, hbyte⟩ := memRead_fault_iff.mp hf
      exact ⟨hf, a, w, rest, .inl hturn, halign, hin, k, hk, pendingByte_agenda.mp hbyte⟩
    | memWrite a w v =>
      obtain ⟨hf, ⟨halign, hin⟩, k, hk, hbyte⟩ := memWrite_fault_iff.mp hf
      exact ⟨hf, a, w, rest, .inr ⟨v, hturn⟩, halign, hin, k, hk, pendingByte_agenda.mp hbyte⟩
  · rintro ⟨hf, a, w, rest, hturn | ⟨v, hturn⟩, halign, hin, k, hk, hbyte⟩ <;> rw [step_of_host hturn]
    · exact memRead_fault_iff.mpr ⟨hf, ⟨halign, hin⟩, k, hk, pendingByte_agenda.mpr hbyte⟩
    · exact memWrite_fault_iff.mpr ⟨hf, ⟨halign, hin⟩, k, hk, pendingByte_agenda.mpr hbyte⟩

/-! ## Data memory after a reset -/

/-- A soft reset leaves data memory alone where the pending word names no command (70_reset_and_hazards.md R451, log 7). -/
theorem softReset_mem_of_undecodable {s : State} {e : DecodeError} (h : decode s.cmd = .error e) :
    s.softReset.mem = s.mem := by
  rw [State.softReset, pendingPlan_of_undecodable h]; rfl

/-- A soft reset draws the bytes in the output spans of the pending command and no other (70_reset_and_hazards.md R451). -/
theorem read_softReset_of_pending {s : State} {i : Instr} (hb : s.busy = true) (hd : decode s.cmd = .ok i) (a : Nat) :
    read s.softReset.mem a =
      if (∃ r ∈ (plan s i).outputs, r.spans a = true) ∧ a < s.cfg.dmemSize then Config.freeByte s.draws a
      else read s.mem a := by
  rw [State.softReset, pendingPlan_of_decode hb hd]
  exact read_fillSpans ..

/-- Settles O13: a power-on, and a soft reset by what is pending. -/
theorem memoryAfterReset : Obligations.MemoryAfterReset := by
  unfold Obligations.MemoryAfterReset
  refine fun s rest => ⟨fun h => ⟨_, step_of_powerOn h, fun a ha => read_allFree _ ha⟩, fun v h hsrst => ?_⟩
  refine ⟨State.softReset { s with agenda := rest }, (step_writeCtrl h).trans (by rw [writeCtrl_srst hsrst]),
    fun hb => softReset_mem_of_idle hb, fun e he => softReset_mem_of_undecodable he, fun i hb hd a => ?_⟩
  have hread := read_softReset_of_pending (s := { s with agenda := rest }) hb hd a
  simp only [plan_agenda, spans_iff] at hread
  refine ⟨fun hspan => hread.trans (if_pos hspan), fun hout => hread.trans (if_neg ?_)⟩
  rintro ⟨⟨r, hr, hspan⟩, -⟩
  exact hout r hr hspan

end Sys2Proof.Proofs
end

section
/-! PROOF. The decoder and the encoder: the rows of the two tables, the command word as a sum of its fields, the three things
decoding can do, and that it inverts encoding (O1 to O3). -/

namespace Sys2Proof.Proofs

open Claims

/-! ## The tables -/

theorem opRow_none_not_assigned {n : Nat} (h : opRow n = none) : n ∉ assignedOps := by
  unfold opRow at h
  split at h <;> simp_all [assignedOps]

theorem opRow_plain_fields {n : Nat} {i : Instr} (h : opRow n = some (.plain i)) : i.op = n ∧ i.layout? = none := by
  unfold opRow at h
  split at h <;> cases h <;> exact ⟨rfl, rfl⟩

theorem opRow_withLayout_fields {n : Nat} {make : Layout → Instr} (h : opRow n = some (.withLayout make)) (l : Layout) :
    (make l).op = n ∧ (make l).layout? = some l := by
  unfold opRow at h
  split at h <;> cases h <;> exact ⟨rfl, rfl⟩

theorem layoutOf_some_code {n : Nat} {l : Layout} (h : layoutOf n = some l) : l.code = n := by
  unfold layoutOf at h
  split at h <;> cases h <;> rfl

theorem layoutOf_none_gt {n : Nat} (h : layoutOf n = none) : 5 < n := by
  refine Nat.lt_of_not_le fun hle => ?_
  have hcases : n = 0 ∨ n = 1 ∨ n = 2 ∨ n = 3 ∨ n = 4 ∨ n = 5 := by omega
  rcases hcases with rfl | rfl | rfl | rfl | rfl | rfl <;> cases h

theorem op_mem_assignedOps (i : Instr) : i.op ∈ assignedOps := by
  cases i <;> simp [Instr.op, assignedOps]

theorem op_mem_layoutOps_iff (i : Instr) : i.op ∈ layoutOps ↔ i.layout? ≠ none := by
  cases i <;> simp [Instr.op, Instr.layout?, layoutOps]

theorem op_lt (i : Instr) : i.op < 256 := by cases i <;> simp [Instr.op]

theorem code_le (l : Layout) : l.code ≤ 5 := by cases l <;> decide

/-! ## The command word -/

/-- `LAYOUT` in the word of a command (30_encoding.md R111, R118). -/
def layoutCode (i : Instr) : Nat := (i.layout?.map Layout.code).getD 0

theorem layoutCode_of_none {i : Instr} (h : i.layout? = none) : layoutCode i = 0 := by simp [layoutCode, h]

theorem layoutCode_of_some {i : Instr} {l : Layout} (h : i.layout? = some l) : layoutCode i = l.code := by
  simp [layoutCode, h]

theorem layoutCode_le (i : Instr) : layoutCode i ≤ 5 := by
  cases h : i.layout? with
  | none => simp [layoutCode_of_none h]
  | some l => simpa [layoutCode_of_some h] using code_le l

theorem toNat_encode (i : Instr) : (encode i).toNat = i.op + 256 * layoutCode i := by
  have hop := op_lt i
  have hcode := layoutCode_le i
  exact (BitVec.toNat_ofNat _ _).trans (Nat.mod_eq_of_lt (show i.op + 256 * layoutCode i < 2 ^ 32 by omega))

/-- A word with the fields of a command and no reserved bit is that command's word: the three fields cover all 32 bits
(30_encoding.md R111). -/
theorem eq_encode_of_fields {w : Word} {i : Instr} (hop : i.op = opField w) (hcode : layoutCode i = layoutField w)
    (hres : reservedField w = 0) : w = encode i := by
  refine BitVec.eq_of_toNat_eq ?_
  rw [toNat_encode, hop, hcode]
  simp only [opField, layoutField, reservedField] at *
  omega

/-! ## Decoding -/

/-- The three things decoding can do: the two errors of 30_encoding.md R112 and R117 by the fields of the word, and a command
whose word it is. -/
theorem decode_cases (w : Word) :
    (opField w ∉ assignedOps ∧ decode w = .error .opcode) ∨
    (opField w ∈ assignedOps ∧ reservedBad w ∧ decode w = .error .reserved) ∨
    (∃ i, i.op = opField w ∧ ¬ reservedBad w ∧ w = encode i ∧ decode w = .ok i) := by
  have hbad : reservedBad w ↔ reservedField w ≠ 0 ∨ (opField w ∉ layoutOps ∧ layoutField w ≠ 0) ∨
    (opField w ∈ layoutOps ∧ 5 < layoutField w) := Iff.rfl
  unfold decode
  cases hrow : opRow (opField w) with
  | none => exact .inl ⟨opRow_none_not_assigned hrow, rfl⟩
  | some row =>
    cases row with
    | plain i =>
      obtain ⟨hop, hlayout⟩ := opRow_plain_fields hrow
      have hmem := op_mem_assignedOps i
      have hno : opField w ∉ layoutOps := by simp [← hop, op_mem_layoutOps_iff, hlayout]
      by_cases hz : reservedField w = 0 ∧ layoutField w = 0
      · refine .inr (.inr ⟨i, hop, by simp [hbad, hno, hz], eq_encode_of_fields hop ?_ hz.1, if_pos hz⟩)
        rw [layoutCode_of_none hlayout, hz.2]
      · have hfield : reservedField w ≠ 0 ∨ layoutField w ≠ 0 := Classical.not_and_iff_not_or_not.mp hz
        exact .inr (.inl ⟨hop ▸ hmem, hbad.mpr (hfield.imp_right fun hl => .inl ⟨hno, hl⟩), if_neg hz⟩)
    | withLayout make =>
      obtain ⟨hop, hlayout⟩ := opRow_withLayout_fields hrow .rgb
      have hmem : opField w ∈ assignedOps := hop ▸ op_mem_assignedOps _
      have hyes : opField w ∈ layoutOps := by simp [← hop, op_mem_layoutOps_iff, hlayout]
      cases hl : layoutOf (layoutField w) with
      | none => exact .inr (.inl ⟨hmem, .inr (.inr ⟨hyes, layoutOf_none_gt hl⟩), rfl⟩)
      | some l =>
        obtain ⟨hop, hlayout⟩ := opRow_withLayout_fields hrow l
        have hcode := layoutOf_some_code hl
        by_cases hz : reservedField w = 0
        · have hle := hcode ▸ code_le l
          refine .inr (.inr ⟨make l, hop, by simp [hbad, hyes, hz, hle], eq_encode_of_fields hop ?_ hz, if_pos hz⟩)
          rw [layoutCode_of_some hlayout, hcode]
        · exact .inr (.inl ⟨hmem, .inl hz, if_neg hz⟩)

theorem decode_encode (i : Instr) : decode (encode i) = .ok i := by
  cases i
  case rgbYcc l => cases l <;> rfl
  case rgbGray l => cases l <;> rfl
  case yccRgb l => cases l <;> rfl
  case mergedH2v1 l => cases l <;> rfl
  case mergedH2v2 l => cases l <;> rfl
  all_goals rfl

/-- Settles O1: a word that decodes has the fields of its command and no other bit, and every command's word decodes to it. -/
theorem decodeInvertsEncode : Obligations.DecodeInvertsEncode := by
  unfold Obligations.DecodeInvertsEncode
  refine fun w i => ⟨fun h => ?_, fun h => h ▸ decode_encode i⟩
  rcases decode_cases w with ⟨-, he⟩ | ⟨-, -, he⟩ | ⟨j, -, -, hw, hj⟩
  · cases he.symm.trans h
  · cases he.symm.trans h
  · cases hj.symm.trans h
    exact hw

/-- Settles O2: each of the three cases of decoding excludes the conditions of the other two. -/
theorem decodeErrorsByField : Obligations.DecodeErrorsByField := by
  unfold Obligations.DecodeErrorsByField
  intro w
  rcases decode_cases w with ⟨hnot, he⟩ | ⟨hmem, hbad, he⟩ | ⟨i, hop, hgood, -, hi⟩
  · exact ⟨fun _ => he, fun h => absurd h hnot, fun h => absurd h hnot⟩
  · exact ⟨fun h => absurd hmem h, fun _ _ => he, fun _ h => absurd hbad h⟩
  · have hmem : opField w ∈ assignedOps := hop ▸ op_mem_assignedOps i
    exact ⟨fun h => absurd hmem h, fun _ h => absurd h hgood, fun _ _ => ⟨i, hi, hop⟩⟩

/-- Settles O3: the decoder evaluated on each word. -/
theorem decodedWords : Obligations.DecodedWords :=
  ⟨rfl, rfl, rfl, rfl, rfl, rfl, rfl, rfl, rfl, rfl, rfl, rfl, rfl, rfl, rfl⟩

end Sys2Proof.Proofs
end

section
/-! PROOF. The checks of a plan in natural numbers: where the span of a region begins and ends, when two spans are apart, and what
the registers of an accepted command satisfy (60_exceptions.md R403; 20_memory.md R85, R86). -/

namespace Sys2Proof.Proofs

open Machine Claims

/-! ## One region -/

/-- A region with at least one row and at least one byte in each. -/
def RegionNonempty (r : Region) : Prop := 1 ≤ r.nrows ∧ 1 ≤ r.rowbytes

/-- The first address of a region whose base is not negative. -/
def spanStart (r : Region) : Nat := r.base.toNat

/-- The address after the last one of such a region (20_memory.md R85). -/
def spanEnd (r : Region) : Nat := rowsEnd (spanStart r) r.nrows r.stride r.rowbytes

/-- The spans of two such regions have no address in common (20_memory.md R86). -/
def spansApart (r t : Region) : Prop := apart (spanStart r) (spanEnd r) (spanStart t) (spanEnd t)

section
variable {r t : Region} {size : Nat}

theorem spanStart_eq_lo (hb : 0 ≤ r.base) : (spanStart r : Int) = r.lo := Int.toNat_of_nonneg hb

theorem spanEnd_eq_hi (hr : RegionNonempty r) (hb : 0 ≤ r.base) : (spanEnd r : Int) = r.hi := by
  have hrows : ((r.nrows - 1 : Nat) : Int) = (r.nrows : Int) - 1 := Int.natCast_sub hr.1
  simp only [spanEnd, rowsEnd, Int.natCast_add, Int.natCast_mul, spanStart_eq_lo hb, hrows, Region.lo, Region.hi]

theorem spanStart_lt_spanEnd (hr : RegionNonempty r) : spanStart r < spanEnd r := by
  have := hr.2
  simp only [spanEnd, rowsEnd]
  omega

theorem inRange_iff_spanEnd (hr : RegionNonempty r) : r.inRange size = true ↔ 0 ≤ r.base ∧ spanEnd r ≤ size := by
  rw [inRange_iff]
  refine and_congr_right fun hb => ?_
  rw [← spanEnd_eq_hi hr hb, Int.ofNat_le]

/-- Two regions that are not empty do not meet exactly where one ends before the other begins. -/
theorem not_meets_iff_spansApart (hr : RegionNonempty r) (hrb : 0 ≤ r.base) (ht : RegionNonempty t) (htb : 0 ≤ t.base) :
    r.meets t = false ↔ spansApart r t := by
  have hlt := spanStart_lt_spanEnd hr
  have hlt' := spanStart_lt_spanEnd ht
  rw [Region.meets, decide_eq_false_iff_not, ← spanStart_eq_lo hrb, ← spanStart_eq_lo htb, ← spanEnd_eq_hi hr hrb,
    ← spanEnd_eq_hi ht htb]
  unfold spansApart apart
  omega

theorem not_selfOverlap_iff (hr : RegionNonempty r) : r.selfOverlap = false ↔ r.nrows = 1 ∨ r.rowbytes ≤ r.stride := by
  have := hr.1
  rw [Bool.eq_false_iff, Ne, selfOverlap_iff]
  omega

theorem spansApart_comm : spansApart r t ↔ spansApart t r := or_comm

end

/-! ## The regions of the plans -/

@[simp] theorem nonempty_rowRegion {b : Word} {n stride w : Nat} :
    RegionNonempty (rowRegion b n stride w) ↔ 1 ≤ n ∧ 1 ≤ w := Iff.rfl

@[simp] theorem nonempty_flatRegion {b : Word} {bytes : Nat} : RegionNonempty (flatRegion b bytes) ↔ 1 ≤ bytes :=
  and_iff_right (Nat.le_refl 1)

@[simp] theorem base_rowRegion (b : Word) (n stride w : Nat) : (rowRegion b n stride w).base = (b.toNat : Int) := rfl

@[simp] theorem base_flatRegion (b : Word) (bytes : Nat) : (flatRegion b bytes).base = (b.toNat : Int) := rfl

@[simp] theorem spanStart_rowRegion (b : Word) (n stride w : Nat) : spanStart (rowRegion b n stride w) = b.toNat := rfl

@[simp] theorem spanStart_flatRegion (b : Word) (bytes : Nat) : spanStart (flatRegion b bytes) = b.toNat := rfl

@[simp] theorem spanEnd_rowRegion (b : Word) (n stride w : Nat) :
    spanEnd (rowRegion b n stride w) = rowsEnd b.toNat n stride w := rfl

@[simp] theorem spanEnd_flatRegion (b : Word) (bytes : Nat) : spanEnd (flatRegion b bytes) = b.toNat + bytes := rfl

@[simp] theorem nrows_rowRegion (b : Word) (n stride w : Nat) : (rowRegion b n stride w).nrows = n := rfl

@[simp] theorem rowbytes_rowRegion (b : Word) (n stride w : Nat) : (rowRegion b n stride w).rowbytes = w := rfl

@[simp] theorem stride_rowRegion (b : Word) (n stride w : Nat) : (rowRegion b n stride w).stride = stride := rfl

@[simp] theorem nrows_flatRegion (b : Word) (bytes : Nat) : (flatRegion b bytes).nrows = 1 := rfl

@[simp] theorem imageOk_iff {s : State} : s.imageOk = true ↔ 1 ≤ s.rowCount ∧ 1 ≤ s.w0 := by
  rw [State.imageOk, Bool.and_eq_true, Nat.ble_eq, Nat.ble_eq]

theorem pixelBytes_eq (l : Layout) : pixelBytes l = layoutSize l := by cases l <;> rfl

theorem layoutSize_pos (l : Layout) : 1 ≤ layoutSize l := by cases l <;> decide

theorem pixelRow_pos {w : Nat} (hw : 1 ≤ w) (l : Layout) : 1 ≤ w * layoutSize l := Nat.mul_pos hw (layoutSize_pos l)

/-! ## The checks of a plan -/

theorem pairwiseApart_iff (l : List Region) : pairwiseApart l = true ↔ l.Pairwise fun r t => r.meets t = false := by
  induction l with
  | nil => simp [pairwiseApart]
  | cons r rs ih => simp [pairwiseApart, ih]

/-- Checks 3 to 6 of 60_exceptions.md R403, as conditions on the regions. -/
theorem check_none_iff_regions {p : Plan} {size : Nat} :
    p.check size = none ↔ p.paramOk = true ∧ (∀ x ∈ p.aligns, x.1 % x.2 = 0) ∧
      (∀ r ∈ p.inputs, r.inRange size = true) ∧ (∀ o ∈ p.outputs, o.inRange size = true) ∧
      (∀ o ∈ p.outputs, o.selfOverlap = false) ∧ (∀ o ∈ p.outputs, ∀ r ∈ p.inputs, o.meets r = false) ∧
      p.outputs.Pairwise fun o o' => o.meets o' = false := by
  rw [check_none_iff]
  simp only [alignsOk, Plan.inRange, Plan.apart, Bool.and_eq_true, List.all_eq_true, beq_iff_eq, Bool.not_eq_true',
    pairwiseApart_iff]
  constructor
  · rintro ⟨hparam, haligns, ⟨hin, hout⟩, ⟨hio, hoo⟩, hself⟩
    exact ⟨hparam, haligns, hin, hout, hself, hio, hoo⟩
  · rintro ⟨hparam, haligns, hin, hout, hself, hio, hoo⟩
    exact ⟨hparam, haligns, ⟨hin, hout⟩, ⟨hio, hoo⟩, hself⟩

/-- A command accepts its registers when its parameters and alignments hold, every span is inside the memory, the rows of no
output overlap, and every output is apart from every input and from every other output. -/
theorem accepts_iff {s : State} {i : Instr} {param : Bool} {aligns : List (Nat × Nat)} {inputs outputs : List Region}
    (hplan : plan s i = ⟨param, aligns, inputs, outputs⟩)
    (hne : param = true → (∀ r ∈ inputs, RegionNonempty r) ∧ ∀ o ∈ outputs, RegionNonempty o)
    (hb : ∀ o ∈ outputs, 0 ≤ o.base) :
    s.accepts i ↔ param = true ∧ (∀ x ∈ aligns, x.1 % x.2 = 0) ∧
      (∀ r ∈ inputs, 0 ≤ r.base ∧ spanEnd r ≤ s.cfg.dmemSize) ∧ (∀ o ∈ outputs, spanEnd o ≤ s.cfg.dmemSize) ∧
      (∀ o ∈ outputs, o.nrows = 1 ∨ o.rowbytes ≤ o.stride) ∧
      (∀ o ∈ outputs, ∀ r ∈ inputs, spansApart r o) ∧ outputs.Pairwise spansApart := by
  rw [State.accepts, hplan, check_none_iff_regions]
  refine and_congr_right fun hparam => and_congr_right fun _ => ?_
  obtain ⟨hin, hout⟩ := hne hparam
  rw [forall₂_congr fun r hr => inRange_iff_spanEnd (size := s.cfg.dmemSize) (hin r hr)]
  refine and_congr_right fun hrange => and_congr ?_ (and_congr ?_ (and_congr ?_ ?_))
  · exact forall₂_congr fun o ho => (inRange_iff_spanEnd (hout o ho)).trans (and_iff_right (hb o ho))
  · exact forall₂_congr fun o ho => not_selfOverlap_iff (hout o ho)
  · exact forall₂_congr fun o ho => forall₂_congr fun r hr =>
      (not_meets_iff_spansApart (hout o ho) (hb o ho) (hin r hr) (hrange r hr).1).trans spansApart_comm
  · exact List.Pairwise.iff_of_mem fun {o o'} ho ho' =>
      not_meets_iff_spansApart (hout o ho) (hb o ho) (hout o' ho') (hb o' ho')

end Sys2Proof.Proofs
end

section
/-! PROOF. Which registers `NOP`, the DCT and the quantizer commands accept (O26). -/

namespace Sys2Proof.Proofs

open Machine Claims

section
variable {s : State} {i : Instr}

theorem accepts_nop (s : State) : s.accepts .nop := rfl

theorem accepts_fdct_iff {bytes align : Nat} (hplan : plan s i = planFdct bytes align s) (hbytes : 1 ≤ bytes) :
    s.accepts i ↔ s.dst0.toNat % align = 0 ∧ rowsEnd s.src0.toNat 8 s.ss0 8 ≤ s.cfg.dmemSize ∧
      s.dst0.toNat + bytes ≤ s.cfg.dmemSize ∧
      apart s.src0.toNat (rowsEnd s.src0.toNat 8 s.ss0 8) s.dst0.toNat (s.dst0.toNat + bytes) :=
  (accepts_iff hplan (by simp [hbytes]) (by simp)).trans (by simp [spansApart])

theorem accepts_idct_iff {n bytes align : Nat}
    (hplan : plan s i = ⟨true, [(s.src0.toNat, 2), (s.tbl.toNat, align)],
      [flatRegion s.src0 128, flatRegion s.tbl bytes], [rowRegion s.dst0 n s.ds0 n]⟩)
    (hn : 2 ≤ n) (hbytes : 1 ≤ bytes) :
    s.accepts i ↔ s.src0.toNat % 2 = 0 ∧ s.tbl.toNat % align = 0 ∧ n ≤ s.ds0 ∧ s.src0.toNat + 128 ≤ s.cfg.dmemSize ∧
      s.tbl.toNat + bytes ≤ s.cfg.dmemSize ∧ rowsEnd s.dst0.toNat n s.ds0 n ≤ s.cfg.dmemSize ∧
      apart s.src0.toNat (s.src0.toNat + 128) s.dst0.toNat (rowsEnd s.dst0.toNat n s.ds0 n) ∧
      apart s.tbl.toNat (s.tbl.toNat + bytes) s.dst0.toNat (rowsEnd s.dst0.toNat n s.ds0 n) := by
  have hn1 : n ≠ 1 := by omega
  rw [accepts_iff hplan (by simp [hbytes, show 1 ≤ n by omega]) (by simp)]
  simp [spansApart, hn1, and_assoc, and_left_comm (b := n ≤ s.ds0)]

theorem accepts_quant_iff {bytes align table : Nat}
    (hplan : plan s i = ⟨true, [(s.src0.toNat, align), (s.tbl.toNat, align), (s.dst0.toNat, 2)],
      [flatRegion s.src0 bytes, flatRegion s.tbl table], [flatRegion s.dst0 128]⟩)
    (hbytes : 1 ≤ bytes) (htable : 1 ≤ table) :
    s.accepts i ↔ s.src0.toNat % align = 0 ∧ s.tbl.toNat % align = 0 ∧ s.dst0.toNat % 2 = 0 ∧
      s.src0.toNat + bytes ≤ s.cfg.dmemSize ∧ s.tbl.toNat + table ≤ s.cfg.dmemSize ∧ s.dst0.toNat + 128 ≤ s.cfg.dmemSize ∧
      apart s.src0.toNat (s.src0.toNat + bytes) s.dst0.toNat (s.dst0.toNat + 128) ∧
      apart s.tbl.toNat (s.tbl.toNat + table) s.dst0.toNat (s.dst0.toNat + 128) :=
  (accepts_iff hplan (by simp [hbytes, htable]) (by simp)).trans
    (by simp [spansApart, and_assoc])

theorem accepts_qtblPrep_iff : s.accepts .qtblPrep ↔ s.src0.toNat % 2 = 0 ∧ s.dst0.toNat % 2 = 0 ∧
    s.src0.toNat + 128 ≤ s.cfg.dmemSize ∧ s.dst0.toNat + 384 ≤ s.cfg.dmemSize ∧
    apart s.src0.toNat (s.src0.toNat + 128) s.dst0.toNat (s.dst0.toNat + 384) :=
  (accepts_iff (by rw [plan, planQtblPrep]) (by simp) (by simp)).trans (by simp [spansApart, and_assoc])

end

/-- Settles O26, by the shapes of plan: a forward DCT, an inverse DCT, a quantizer, and the table's preparation. -/
theorem acceptanceBlocks : Obligations.AcceptanceBlocks := by
  unfold Obligations.AcceptanceBlocks
  exact fun s => ⟨accepts_nop s,
    accepts_fdct_iff rfl (by decide), accepts_fdct_iff rfl (by decide), accepts_fdct_iff rfl (by decide),
    accepts_idct_iff rfl (by decide) (by decide), accepts_idct_iff rfl (by decide) (by decide),
    accepts_idct_iff rfl (by decide) (by decide), accepts_idct_iff rfl (by decide) (by decide),
    accepts_idct_iff rfl (by decide) (by decide), accepts_idct_iff rfl (by decide) (by decide),
    accepts_idct_iff rfl (by decide) (by decide),
    accepts_quant_iff rfl (by decide) (by decide), accepts_quant_iff rfl (by decide) (by decide), accepts_qtblPrep_iff⟩

end Sys2Proof.Proofs
end

section
/-! PROOF. Which registers the colour and the resampling commands accept, by the shape of the plan: rows to rows, three planes to
rows, context rows to rows, and pixels to three planes (O27, O28). -/

namespace Sys2Proof.Proofs

open Machine Claims

section
variable {s : State} {i : Instr} {param : Bool} {aligns : List (Nat × Nat)}

/-! ## The shapes -/

/-- One region of rows to another. -/
theorem accepts_rows_iff {rowsIn bytesIn rowsOut bytesOut : Nat}
    (hplan : plan s i =
      ⟨param, aligns, [rowRegion s.src0 rowsIn s.ss0 bytesIn], [rowRegion s.dst0 rowsOut s.ds0 bytesOut]⟩)
    (hne : param = true → (1 ≤ rowsIn ∧ 1 ≤ bytesIn) ∧ 1 ≤ rowsOut ∧ 1 ≤ bytesOut) :
    s.accepts i ↔ param = true ∧ (∀ x ∈ aligns, x.1 % x.2 = 0) ∧
      rowsEnd s.src0.toNat rowsIn s.ss0 bytesIn ≤ s.cfg.dmemSize ∧
      rowsEnd s.dst0.toNat rowsOut s.ds0 bytesOut ≤ s.cfg.dmemSize ∧ (rowsOut = 1 ∨ bytesOut ≤ s.ds0) ∧
      spansApart (rowRegion s.src0 rowsIn s.ss0 bytesIn) (rowRegion s.dst0 rowsOut s.ds0 bytesOut) :=
  (accepts_iff hplan (by simpa using hne) (by simp)).trans (by simp)

/-- A luma plane and two chroma planes to one region of rows. -/
theorem accepts_planes_iff {rowsY bytesY rowsC bytesC rowsOut bytesOut : Nat}
    (hplan : plan s i = ⟨param, aligns, [rowRegion s.src0 rowsY s.ss0 bytesY, rowRegion s.src1 rowsC s.ss1 bytesC,
      rowRegion s.src2 rowsC s.ss1 bytesC], [rowRegion s.dst0 rowsOut s.ds0 bytesOut]⟩)
    (hne : param = true → ((1 ≤ rowsY ∧ 1 ≤ bytesY) ∧ 1 ≤ rowsC ∧ 1 ≤ bytesC) ∧ 1 ≤ rowsOut ∧ 1 ≤ bytesOut) :
    s.accepts i ↔ param = true ∧ (∀ x ∈ aligns, x.1 % x.2 = 0) ∧
      rowsEnd s.src0.toNat rowsY s.ss0 bytesY ≤ s.cfg.dmemSize ∧ rowsEnd s.src1.toNat rowsC s.ss1 bytesC ≤ s.cfg.dmemSize ∧
      rowsEnd s.src2.toNat rowsC s.ss1 bytesC ≤ s.cfg.dmemSize ∧
      rowsEnd s.dst0.toNat rowsOut s.ds0 bytesOut ≤ s.cfg.dmemSize ∧ (rowsOut = 1 ∨ bytesOut ≤ s.ds0) ∧
      spansApart (rowRegion s.src0 rowsY s.ss0 bytesY) (rowRegion s.dst0 rowsOut s.ds0 bytesOut) ∧
      spansApart (rowRegion s.src1 rowsC s.ss1 bytesC) (rowRegion s.dst0 rowsOut s.ds0 bytesOut) ∧
      spansApart (rowRegion s.src2 rowsC s.ss1 bytesC) (rowRegion s.dst0 rowsOut s.ds0 bytesOut) :=
  (accepts_iff hplan (by simpa using hne) (by simp)).trans (by simp [and_assoc])

theorem spanStart_contextRegion (s : State) : spanStart (contextRegion s) = s.src0.toNat - s.ss0 := Int.toNat_sub _ _

theorem base_contextRegion : 0 ≤ (contextRegion s).base ↔ s.ss0 ≤ s.src0.toNat := by simp [contextRegion]

/-- The context rows begin one stride before `SRC0` and end where `NROWS + 1` rows at `SRC0` end (45_resample.md R303). -/
theorem spanEnd_contextRegion (h : s.ss0 ≤ s.src0.toNat) :
    spanEnd (contextRegion s) = rowsEnd s.src0.toNat (s.rowCount + 1) s.ss0 s.w0 := by
  have hrows : (s.rowCount + 1) * s.ss0 = s.rowCount * s.ss0 + s.ss0 := Nat.succ_mul _ _
  rw [spanEnd, spanStart_contextRegion]
  simp only [contextRegion, rowsEnd, Nat.add_sub_cancel, show s.rowCount + 2 - 1 = s.rowCount + 1 from rfl]
  omega

/-- The context rows around `SRC0` to two rows for each. -/
theorem accepts_context_iff {bytesOut : Nat}
    (hplan : plan s i = ⟨param, aligns, [contextRegion s], [rowRegion s.dst0 (2 * s.rowCount) s.ds0 bytesOut]⟩)
    (hne : param = true → 1 ≤ s.w0 ∧ 1 ≤ 2 * s.rowCount ∧ 1 ≤ bytesOut) :
    s.accepts i ↔ param = true ∧ (∀ x ∈ aligns, x.1 % x.2 = 0) ∧ s.ss0 ≤ s.src0.toNat ∧
      rowsEnd s.src0.toNat (s.rowCount + 1) s.ss0 s.w0 ≤ s.cfg.dmemSize ∧
      rowsEnd s.dst0.toNat (2 * s.rowCount) s.ds0 bytesOut ≤ s.cfg.dmemSize ∧ bytesOut ≤ s.ds0 ∧
      apart (s.src0.toNat - s.ss0) (rowsEnd s.src0.toNat (s.rowCount + 1) s.ss0 s.w0)
        s.dst0.toNat (rowsEnd s.dst0.toNat (2 * s.rowCount) s.ds0 bytesOut) := by
  have hrows : RegionNonempty (contextRegion s) ↔ 1 ≤ s.w0 := by simp [RegionNonempty, contextRegion]
  have hone : 2 * s.rowCount ≠ 1 := by omega
  rw [accepts_iff hplan (by simpa [hrows] using hne) (by simp)]
  refine and_congr_right fun _ => and_congr_right fun _ => ?_
  by_cases h : s.ss0 ≤ s.src0.toNat
  · simp [base_contextRegion, h, hone, spansApart, spanStart_contextRegion, spanEnd_contextRegion h]
  · simp [base_contextRegion, h]

/-- An output plane of full resolution. -/
def planeOutput (base : Word) (stride : Nat) (s : State) : Region := rowRegion base s.rowCount stride s.w0

/-- Rows of pixels to three planes, the second and the third with one stride. -/
theorem accepts_rgbYcc_iff {l : Layout} : s.accepts (.rgbYcc l) ↔
    s.imageOk = true ∧ (∀ x ∈ ([] : List (Nat × Nat)), x.1 % x.2 = 0) ∧ spanEnd (pixelInput l s) ≤ s.cfg.dmemSize ∧
      spanEnd (planeOutput s.dst0 s.ds0 s) ≤ s.cfg.dmemSize ∧ spanEnd (planeOutput s.dst1 s.ds1 s) ≤ s.cfg.dmemSize ∧
      spanEnd (planeOutput s.dst2 s.ds1 s) ≤ s.cfg.dmemSize ∧
      (s.rowCount = 1 ∨ s.w0 ≤ s.ds0) ∧ (s.rowCount = 1 ∨ s.w0 ≤ s.ds1) ∧
      spansApart (pixelInput l s) (planeOutput s.dst0 s.ds0 s) ∧ spansApart (pixelInput l s) (planeOutput s.dst1 s.ds1 s) ∧
      spansApart (pixelInput l s) (planeOutput s.dst2 s.ds1 s) ∧
      spansApart (planeOutput s.dst0 s.ds0 s) (planeOutput s.dst1 s.ds1 s) ∧
      spansApart (planeOutput s.dst0 s.ds0 s) (planeOutput s.dst2 s.ds1 s) ∧
      spansApart (planeOutput s.dst1 s.ds1 s) (planeOutput s.dst2 s.ds1 s) := by
  rw [accepts_iff (by rw [plan, planRgbYcc, pixelInput, pixelBytes_eq]) (by simp +contextual [pixelRow_pos]) (by simp)]
  simp [planeOutput, pixelInput, pixelBytes_eq, and_assoc]

/-! ## The parameters -/

theorem downOk_iff : (s.imageOk && Nat.ble 1 s.w1 && Nat.ble s.w0 (2 * s.w1)) = true ↔
    1 ≤ s.rowCount ∧ 1 ≤ s.w0 ∧ 1 ≤ s.w1 ∧ s.w0 ≤ 2 * s.w1 := by simp [and_assoc]

theorem fancyOk_iff : (s.imageOk && Nat.ble 2 s.w0) = true ↔ 1 ≤ s.rowCount ∧ 2 ≤ s.w0 := by
  rw [Bool.and_eq_true, imageOk_iff, Nat.ble_eq]
  omega

theorem halfWidth_pos (h : 1 ≤ s.w0) : 1 ≤ s.halfWidth := by
  unfold State.halfWidth
  omega

theorem merged_nonempty {k : Nat} (hk : 1 ≤ k) (l : Layout) (h : s.imageOk = true) :
    ((1 ≤ k * s.rowCount ∧ 1 ≤ s.w0) ∧ 1 ≤ s.rowCount ∧ 1 ≤ s.halfWidth) ∧
      1 ≤ k * s.rowCount ∧ 1 ≤ s.w0 * layoutSize l := by
  obtain ⟨hn, hw⟩ := imageOk_iff.mp h
  have hkn : 1 ≤ k * s.rowCount := Nat.mul_pos hk hn
  exact ⟨⟨⟨hkn, hw⟩, hn, halfWidth_pos hw⟩, hkn, pixelRow_pos hw l⟩

theorem image_param_iff {P : Prop} : s.imageOk = true ∧ (∀ x ∈ ([] : List (Nat × Nat)), x.1 % x.2 = 0) ∧ P ↔
    1 ≤ s.rowCount ∧ 1 ≤ s.w0 ∧ P := by simp [and_assoc]

theorem down_param_iff {P : Prop} : (s.imageOk && Nat.ble 1 s.w1 && Nat.ble s.w0 (2 * s.w1)) = true ∧
    (∀ x ∈ ([] : List (Nat × Nat)), x.1 % x.2 = 0) ∧ P ↔
    1 ≤ s.rowCount ∧ 1 ≤ s.w0 ∧ 1 ≤ s.w1 ∧ s.w0 ≤ 2 * s.w1 ∧ P := by
  simp only [downOk_iff, List.not_mem_nil, false_imp_iff, implies_true, true_and, and_assoc]

theorem fancy_param_iff {P : Prop} : (s.imageOk && Nat.ble 2 s.w0) = true ∧
    (∀ x ∈ ([] : List (Nat × Nat)), x.1 % x.2 = 0) ∧ P ↔ 1 ≤ s.rowCount ∧ 2 ≤ s.w0 ∧ P := by
  simp only [fancyOk_iff, List.not_mem_nil, false_imp_iff, implies_true, true_and, and_assoc]

theorem packed_param_iff {P : Prop} :
    s.imageOk = true ∧ (∀ x ∈ [(s.dst0.toNat, 2), (s.ds0, 2)], x.1 % x.2 = 0) ∧ P ↔
    1 ≤ s.rowCount ∧ 1 ≤ s.w0 ∧ s.dst0.toNat % 2 = 0 ∧ s.ds0 % 2 = 0 ∧ P := by simp [and_assoc]

end

/-! ## The commands -/

/-- Settles O27, by the shapes of plan: pixels to three planes, pixels to one, and three planes to pixels. -/
theorem acceptanceColour : Obligations.AcceptanceColour := by
  unfold Obligations.AcceptanceColour
  intro s l
  refine ⟨?_, ?_, ?_, ?_⟩
  · rw [accepts_rgbYcc_iff, pixelInput, pixelBytes_eq]
    exact image_param_iff
  · rw [accepts_rows_iff (by rw [plan, planRgbGray, pixelInput, pixelBytes_eq]) (by simp +contextual [pixelRow_pos])]
    exact image_param_iff
  · rw [accepts_planes_iff (by rw [plan, planYccRgb, planeInputs, pixelBytes_eq]) (by simp +contextual [pixelRow_pos])]
    exact image_param_iff
  · rw [accepts_planes_iff (by rw [plan, planYccRgb565, planeInputs]) (by rw [imageOk_iff]; omega)]
    exact packed_param_iff

/-- Settles O28, by the shapes of plan: rows to rows, context rows to rows, and three planes to pixels. -/
theorem acceptanceResample : Obligations.AcceptanceResample := by
  unfold Obligations.AcceptanceResample
  intro s l
  refine ⟨?_, ?_, ?_, ?_, ?_, ?_, ?_, ?_, ?_⟩
  · rw [accepts_rows_iff (by rw [plan, planDown, Nat.one_mul]) (by rw [downOk_iff]; omega)]
    exact down_param_iff
  · rw [accepts_rows_iff (by rw [plan, planDown]) (by rw [downOk_iff]; omega)]
    exact down_param_iff
  · rw [accepts_rows_iff (by rw [plan, planUpBox, Nat.one_mul]) (by rw [imageOk_iff]; omega)]
    exact image_param_iff
  · rw [accepts_rows_iff (by rw [plan, planUpBox]) (by rw [imageOk_iff]; omega)]
    exact image_param_iff
  · rw [accepts_rows_iff (by rw [plan, planUpH2v1Fancy]) (by rw [fancyOk_iff]; omega)]
    exact fancy_param_iff
  · rw [accepts_context_iff (by rw [plan, planUpH1v2Fancy]) (by rw [imageOk_iff]; omega)]
    exact image_param_iff
  · rw [accepts_context_iff (by rw [plan, planUpH2v2Fancy]) (by rw [fancyOk_iff]; omega)]
    exact fancy_param_iff
  · rw [accepts_planes_iff (by rw [plan, planMerged, pixelBytes_eq]) (merged_nonempty (by decide) l)]
    exact image_param_iff
  · rw [accepts_planes_iff (by rw [plan, planMerged, pixelBytes_eq]) (merged_nonempty (by decide) l)]
    exact image_param_iff

end Sys2Proof.Proofs
end

section
/-! PROOF. `NOP` completes, and what the words with `OP = 0` do (O29; 40_control.md R140). -/

namespace Sys2Proof.Proofs

open Machine Claims

theorem engineTurn_of_decode_error {s : State} {e : DecodeError} (hb : s.busy = true) (hd : decode s.cmd = .error e) :
    engineTurn s = .next (s.fail (decodeFailure e)) := by
  simp [engineTurn, State.commandWord, State.takeCmdError, hb, hd]

/-- The plan of `NOP` passes every check and its output is empty, so it completes with memory as it was. -/
theorem exec_nop (s : State) : exec .nop s = .next s.complete := by
  rw [exec_eq_runCommand, runCommand_of_ok (outputCells .nop) (accepts_nop s) rfl]
  rfl

theorem irq_complete (s : State) : s.complete.irq = s.irqEn := Bool.and_true s.irqEn

/-- `OP = 0` is assigned and has no `LAYOUT`, so any bit above it is a reserved one (30_encoding.md R112, R117). -/
theorem decode_nop_other_bit {w : Word} (hop : w.toNat % 256 = 0) (hother : w.toNat / 256 ≠ 0) :
    decode w = .error .reserved := by
  obtain ⟨-, hreserved, -⟩ := decodeErrorsByField w
  have hassigned : w.toNat % 256 ∈ assignedOps := by rw [hop]; decide
  have hnolayout : w.toNat % 256 ∉ layoutOps := by rw [hop]; decide
  have hfields : w.toNat / 4096 ≠ 0 ∨ w.toNat / 256 % 16 ≠ 0 := by omega
  exact hreserved hassigned (hfields.imp_right fun hlayout => .inl ⟨hnolayout, hlayout⟩)

/-- The reset state with a `START` written by the host and then the engine's turn (40_control.md R140). -/
def resetThenStart : State := { State.reset with agenda := [.host (.regWrite 0x08#8 .word 0x1#32), .engine] }

/-- The same once `START` has taken effect. -/
def resetStarted : State := { State.reset with agenda := [.engine] }.begin

theorem step_resetThenStart : step resetThenStart = .next resetStarted := by
  rw [step_writeCtrl (s := resetThenStart) rfl, writeCtrl_start (by decide) (by decide) rfl]
  rfl

/-- `CMD` is 0 after reset, the word of `NOP`. -/
theorem step_resetStarted : step resetStarted = .next { resetStarted with agenda := [] }.complete := by
  have hturn : resetStarted.engineNext [] := .inl rfl
  rw [step_of_engineNext hturn, engineTurn_of_decode (i := .nop) rfl (decode_encode .nop), exec_nop]

/-- Settles O29: `NOP` passes every check, any bit above `OP = 0` is a reserved one, and `START` alone runs `NOP` after reset. -/
theorem nopCompletes : Obligations.NopCompletes := by
  unfold Obligations.NopCompletes
  refine ⟨fun s => ⟨exec_nop s, fun t h => ?_⟩, decode_encode .nop, fun s rest hturn hb hop hother => ?_,
    resetStarted, _, step_resetThenStart, step_resetStarted, rfl⟩
  · cases (exec_nop s).symm.trans h
    exact irq_complete s
  · rw [step_of_engineNext hturn]
    exact engineTurn_of_decode_error (s := { s with agenda := rest }) hb (decode_nop_other_bit hop hother)

end Sys2Proof.Proofs
end

section
/-! PROOF. Commands that write a block of little-endian values: the state after one, each value it writes, and the bytes it leaves
alone. -/

namespace Sys2Proof.Proofs

open Machine Machine.Memory Claims

/-- A command that passes every check completes with its output bytes written (10_state.md R46). -/
theorem exec_of_accepts {i : Instr} {s : State} (h : s.accepts i) (hdata : dataCheck i s = true) :
    exec i s = .next (s.succeeded (writeCells s.mem (outputCells i s))) := by
  rw [exec_eq_runCommand, runCommand_of_ok (outputCells i) h hdata]
  rfl

/-- A command whose one output is a block at `DST0` leaves every byte outside it alone. -/
theorem sameOutside_outputCells {i : Instr} {s : State} {bytes : Nat} (h : (plan s i).outputs = [flatRegion s.dst0 bytes]) :
    sameOutside s.mem (writeCells s.mem (outputCells i s)) s.dst0.toNat bytes := by
  intro a ha
  refine read_outputCells_other i s fun r hr hh => ?_
  rw [h, List.mem_singleton] at hr
  subst hr
  obtain ⟨k, hk, rfl⟩ := flatRegion_address hh
  omega

/-- A loop that writes values of `size` bytes at addresses where no two values meet: each byte of each value is read back. -/
theorem read_gridCells_cellsLE {n w size : Nat} {addr : Nat → Nat → Nat} {value : Nat → Nat → Int} (m : Memory)
    (hapart : ∀ r j r' j', r < n → j < w → r' < n → j' < w → addr r j < addr r' j' + size → addr r' j' < addr r j + size →
      r = r' ∧ j = j')
    {r j k : Nat} (hr : r < n) (hj : j < w) (hk : k < size) :
    read (writeCells m (gridCells n w fun r j => cellsLE (addr r j) (value r j) size)) (addr r j + k) =
      toByte (asr (value r j) (8 * k)) := by
  refine read_gridCells (c := (addr r j + k, toByte (asr (value r j) (8 * k)))) m hr hj (mem_cellsLE_iff.mpr ⟨k, hk, rfl⟩)
    fun r' j' c' hr' hj' hc' he => ?_
  obtain ⟨k', hk', rfl⟩ := mem_cellsLE_iff.mp hc'
  simp only at he
  obtain ⟨rfl, rfl⟩ := hapart r' j' r j hr' hj' hr hj (by omega) (by omega)
  obtain rfl : k' = k := by omega
  rfl

/-- A 32-bit encoding written is the encoding read. -/
theorem f32_of_bytes {m : Memory} {a : Nat} {x : F32}
    (h : ∀ k, k < 4 → read m (a + k) = toByte (asr (x.toNat : Int) (8 * k))) : f32 m a = x := by
  have hle : (readLE m a 4 : Int) = (x.toNat : Int) % 4294967296 := readLE_of_bytes h
  have hlt := x.isLt
  rw [f32, show readLE m a 4 = x.toNat by omega, BitVec.ofNat_toNat, BitVec.setWidth_eq]

theorem byteVal_range (b : Byte) : 0 ≤ byteVal b ∧ byteVal b ≤ 255 := by
  have := b.isLt
  unfold byteVal
  omega

end Sys2Proof.Proofs
end

section
/-! PROOF. The two passes of a forward DCT as a function of row and column, for any 1-D transform (41_fdct.md R150 to R152). -/

namespace Sys2Proof.Proofs

open Machine Machine.Memory Claims

theorem get8_map8 {α β : Type} (f : α → β) (v : V8 α) (i : Nat) : get8 (map8 f v) i = f (get8 v i) := by
  unfold get8; split <;> rfl

/-- The eight indices of a row or a column. -/
theorem lt_eight_cases {k : Nat} (h : k < 8) :
    k = 0 ∨ k = 1 ∨ k = 2 ∨ k = 3 ∨ k = 4 ∨ k = 5 ∨ k = 6 ∨ k = 7 := by omega

theorem pos_lt_eight_cases {k : Nat} (h0 : 0 < k) (h : k < 8) :
    k = 1 ∨ k = 2 ∨ k = 3 ∨ k = 4 ∨ k = 5 ∨ k = 6 ∨ k = 7 := by omega

theorem get8_tabulate8 {α : Type} (f : Nat → α) {i : Nat} (h : i < 8) : get8 (tabulate8 f) i = f i := by
  rcases lt_eight_cases h with rfl | rfl | rfl | rfl | rfl | rfl | rfl | rfl <;> rfl

theorem transpose8_eq {α : Type} (m : V8 (V8 α)) : transpose8 m = tabulate8 fun x => map8 (fun row => get8 row x) m := rfl

/-- A 1-D transform on eight values as a function of their indices. -/
def onIndices {α : Type} (f : V8 α → V8 α) (e : Nat → α) (k : Nat) : α := get8 (f (tabulate8 e)) k

/-- Coefficient `(u, v)` is output `u` of the second transform on the outputs `v` of the first on each row (41_fdct.md R151). -/
theorem at8_fdctPasses {α : Type} (f1 f2 : V8 α → V8 α) (d : Nat → Nat → α) {u v : Nat} (hu : u < 8) (hv : v < 8) :
    at8 (fdctPasses f1 f2 (block8 d)) u v = onIndices f2 (fun y => onIndices f1 (d y) v) u := by
  rw [at8, fdctPasses, transpose8_eq, get8_tabulate8 _ hu, get8_map8, get8_map8, transpose8_eq, get8_tabulate8 _ hv]
  rfl

theorem fdctInput_eq (s : State) : fdctInput s = block8 (shifted s) := rfl

theorem shifted_range (s : State) (y x : Nat) : -128 ≤ shifted s y x ∧ shifted s y x ≤ 127 := by
  have := byteVal_range (read s.mem (s.src0.toNat + y * (s.sstride.toNat % 65536) + x))
  unfold shifted s8
  omega

theorem natAbs_shifted_le (s : State) (y x : Nat) : (shifted s y x).natAbs ≤ 128 := by
  have := shifted_range s y x
  omega

/-- A coefficient that fits 16 bits is stored whole (41_fdct.md R152). -/
theorem i16_fdctIntCells (s : State) (c : V8 (V8 Int)) {u v : Nat} (hu : u < 8) (hv : v < 8)
    (hlo : -32768 ≤ at8 c u v) (hhi : at8 c u v ≤ 32767) :
    i16 (writeCells s.mem (fdctIntCells s c)) (s.dst0.toNat + 2 * (8 * u + v)) = at8 c u v := by
  have hread : i16 (writeCells s.mem (fdctIntCells s c)) (s.dst0.toNat + 2 * (8 * u + v)) = wrap16 (wrap16 (at8 c u v)) :=
    i16_of_bytes fun k hk => read_gridCells_cellsLE (addr := fun u v => s.dst0.toNat + 2 * (8 * u + v))
      (value := fun u v => wrap16 (at8 c u v)) s.mem (fun r j r' j' _ _ _ _ _ _ => by omega) hu hv hk
  rw [hread, wrap16_of_range hlo hhi, wrap16_of_range hlo hhi]

theorem f32_fdctFloatCells (s : State) (c : V8 (V8 F32)) {u v : Nat} (hu : u < 8) (hv : v < 8) :
    f32 (writeCells s.mem (fdctFloatCells s c)) (s.dst0.toNat + 4 * (8 * u + v)) = at8 c u v :=
  f32_of_bytes fun k hk => read_gridCells_cellsLE (addr := fun u v => s.dst0.toNat + 4 * (8 * u + v))
    (value := fun u v => ((at8 c u v).toNat : Int)) s.mem (fun r j r' j' _ _ _ _ _ _ => by omega) hu hv hk

end Sys2Proof.Proofs
end

section
/-! PROOF. `FDCT_ISLOW` completes with rounded sums of products in range (O30; 41_fdct.md R153, R162). -/

namespace Sys2Proof.Proofs

open Machine Machine.Memory Claims

/-- The network of 41_fdct.md R153 multiplies out to the rows of `forwardWeights`. -/
theorem fdctIslow1d_eq_dot (dc : Int → Int) (n : Nat) (e : Nat → Int) {k : Nat} (hk : k < 8) :
    onIndices (fdctIslow1d dc n) e k =
      if k % 4 = 0 then dc (dot (forwardWeights k) e) else descale (dot (forwardWeights k) e) n := by
  by_cases h4 : k % 4 = 0
  · rw [if_pos h4]
    obtain rfl | rfl : k = 0 ∨ k = 4 := by omega
    all_goals exact congrArg dc (by simp only [tabulate8, forwardWeights, dot, Nat.reduceAdd]; omega)
  · rw [if_neg h4]
    obtain rfl | rfl | rfl | rfl | rfl | rfl : k = 1 ∨ k = 2 ∨ k = 3 ∨ k = 5 ∨ k = 6 ∨ k = 7 := by omega
    all_goals exact congrArg (descale · n) (by simp only [tabulate8, forwardWeights, dot, Nat.reduceAdd]; omega)

/-- A sum of products is at most the sum of the weights' sizes times a bound on the values. -/
theorem natAbs_dot_le {w : List Int} {e : Nat → Int} {b : Nat} (h : ∀ i, i < w.length → (e i).natAbs ≤ b) :
    (dot w e).natAbs ≤ (w.map Int.natAbs).sum * b := by
  induction w generalizing e with
  | nil => exact Nat.zero_le _
  | cons c w ih =>
    have hhead : (c * e 0).natAbs ≤ c.natAbs * b := by
      rw [Int.natAbs_mul]
      exact Nat.mul_le_mul_left _ (h 0 (Nat.succ_pos _))
    have htail := ih (e := fun i => e (i + 1)) fun i hi => h (i + 1) (Nat.succ_lt_succ hi)
    rw [dot, List.map_cons, List.sum_cons, Nat.add_mul]
    exact Nat.le_trans (Int.natAbs_add_le _ _) (Nat.add_le_add hhead htail)

/-- A pass whose inputs are at most `b` in size has sums of products of at most `8b` in the outputs 0 and 4, and `60548b` in the
others. -/
theorem natAbs_dot_forwardWeights_le {e : Nat → Int} {b : Nat} (h : ∀ i, i < 8 → (e i).natAbs ≤ b) {k : Nat}
    (hk : k < 8) : (dot (forwardWeights k) e).natAbs ≤ (if k % 4 = 0 then 8 else 60548) * b := by
  have hlen : (forwardWeights k).length = 8 := by
    rcases lt_eight_cases hk with rfl | rfl | rfl | rfl | rfl | rfl | rfl | rfl <;> rfl
  have hsum : ((forwardWeights k).map Int.natAbs).sum ≤ if k % 4 = 0 then 8 else 60548 := by
    rcases lt_eight_cases hk with rfl | rfl | rfl | rfl | rfl | rfl | rfl | rfl <;> decide
  exact Nat.le_trans (natAbs_dot_le fun i hi => h i (hlen ▸ hi)) (Nat.mul_le_mul_right b hsum)

/-- Pass 1 of 41_fdct.md R153 as sums of products. -/
theorem islowRow_eq (e : Nat → Int) {k : Nat} (hk : k < 8) : onIndices (fdctIslow1d (fun x => shl x 2) 11) e k =
    if k % 4 = 0 then dot (forwardWeights k) e * 4 else (dot (forwardWeights k) e + 1024) / 2048 := by
  rw [fdctIslow1d_eq_dot _ _ _ hk, descale_eq, shl_eq]
  rfl

/-- Pass 2 of 41_fdct.md R153 as sums of products. -/
theorem islowColumn_eq (e : Nat → Int) {k : Nat} (hk : k < 8) : onIndices (fdctIslow1d (fun x => descale x 2) 15) e k =
    if k % 4 = 0 then (dot (forwardWeights k) e + 2) / 4 else (dot (forwardWeights k) e + 16384) / 32768 := by
  rw [fdctIslow1d_eq_dot _ _ _ hk, descale_eq, descale_eq]
  rfl

/-- Pass 1 on samples stays within 4096. -/
theorem natAbs_islowRow_le {e : Nat → Int} (h : ∀ i, i < 8 → (e i).natAbs ≤ 128) {k : Nat} (hk : k < 8) :
    (onIndices (fdctIslow1d (fun x => shl x 2) 11) e k).natAbs ≤ 4096 := by
  have hdot := natAbs_dot_forwardWeights_le h hk
  rw [islowRow_eq e hk]
  split at hdot <;> omega

/-- Pass 2 on values within 4096 stays within 8192 (41_fdct.md R162). -/
theorem natAbs_islowColumn_le {e : Nat → Int} (h : ∀ i, i < 8 → (e i).natAbs ≤ 4096) {k : Nat} (hk : k < 8) :
    (onIndices (fdctIslow1d (fun x => descale x 2) 15) e k).natAbs ≤ 8192 := by
  have hdot := natAbs_dot_forwardWeights_le h hk
  rw [islowColumn_eq e hk]
  split at hdot <;> omega

/-- The workspace between the passes of `FDCT_ISLOW`. -/
def islowWorkspace (s : State) (y k : Nat) : Int := onIndices (fdctIslow1d (fun x => shl x 2) 11) (shifted s y) k

theorem at8_fdctIslowBlock (s : State) {u v : Nat} (hu : u < 8) (hv : v < 8) : at8 (fdctIslowBlock (fdctInput s)) u v =
    onIndices (fdctIslow1d (fun x => descale x 2) 15) (fun y => islowWorkspace s y v) u :=
  at8_fdctPasses _ _ _ hu hv

theorem fdctIslowBlock_range (s : State) {u v : Nat} (hu : u < 8) (hv : v < 8) :
    -8192 ≤ at8 (fdctIslowBlock (fdctInput s)) u v ∧ at8 (fdctIslowBlock (fdctInput s)) u v ≤ 8192 := by
  have hws : ∀ y, y < 8 → (islowWorkspace s y v).natAbs ≤ 4096 := fun y _ =>
    natAbs_islowRow_le (fun x _ => natAbs_shifted_le s y x) hv
  have hcoefficient := natAbs_islowColumn_le hws hu
  rw [at8_fdctIslowBlock s hu hv]
  omega

theorem i16_after_fdctIslow (s : State) {u v : Nat} (hu : u < 8) (hv : v < 8) :
    i16 (writeCells s.mem (outputCells .fdctIslow s)) (s.dst0.toNat + 2 * (8 * u + v)) =
      at8 (fdctIslowBlock (fdctInput s)) u v := by
  obtain ⟨hlo, hhi⟩ := fdctIslowBlock_range s hu hv
  exact i16_fdctIntCells s _ hu hv (by omega) (by omega)

/-- Settles O30: each pass is its sums of products, the weights bound the coefficients, and these are stored whole. -/
theorem fdctIslowOutput : Obligations.FdctIslowOutput := by
  unfold Obligations.FdctIslowOutput
  intro s h
  refine ⟨islowWorkspace s, _, exec_of_accepts h rfl, fun y k _ hk => islowRow_eq _ hk, fun u v hu hv => ?_,
    fun u v hu hv => ?_, sameOutside_outputCells rfl⟩
  · rw [i16_after_fdctIslow s hu hv, at8_fdctIslowBlock s hu hv, islowColumn_eq _ hu]
  · rw [i16_after_fdctIslow s hu hv]
    exact fdctIslowBlock_range s hu hv

end Sys2Proof.Proofs
end

section
/-! PROOF. `FDCT_IFAST` completes with its network, whose results fit 16 bits (O31; 41_fdct.md R156, R162). -/

namespace Sys2Proof.Proofs

open Machine Machine.Memory Claims

theorem fdctIfast1d_eq_fastForward (e : Nat → Int) {k : Nat} (hk : k < 8) :
    onIndices fdctIfast1d e k = fastForward e k := by
  rcases lt_eight_cases hk with rfl | rfl | rfl | rfl | rfl | rfl | rfl | rfl <;> rfl

/-- The multiplication of 41_fdct.md R156 on a value at most `c` in size rounds down by less than 1. -/
theorem scaled8_bounds (x k c : Int) (h : -c ≤ x ∧ x ≤ c) (hk : 0 ≤ k) :
    -(c * k) - 255 ≤ 256 * scaled8 x k ∧ 256 * scaled8 x k ≤ c * k := by
  obtain ⟨hlo, hhi⟩ := h
  have hlo := Int.mul_le_mul_of_nonneg_right hlo hk
  have hhi := Int.mul_le_mul_of_nonneg_right hhi hk
  rw [Int.neg_mul] at hlo
  unfold scaled8
  omega

/-- One pass of the fast network makes values at most 14 times as large, but for its rounding. -/
theorem natAbs_fastForward_le {e : Nat → Int} {b : Nat} (h : ∀ i, i < 8 → (e i).natAbs ≤ b) {k : Nat} (hk : k < 8) :
    (fastForward e k).natAbs ≤ 14 * b + 4 := by
  have hb : ∀ i, i < 8 → -(b : Int) ≤ e i ∧ e i ≤ b := fun i hi => by have := h i hi; omega
  have h0 := hb 0 (by decide)
  have h1 := hb 1 (by decide)
  have h2 := hb 2 (by decide)
  have h3 := hb 3 (by decide)
  have h4 := hb 4 (by decide)
  have h5 := hb 5 (by decide)
  have h6 := hb 6 (by decide)
  have h7 := hb 7 (by decide)
  have hz1 := scaled8_bounds (e 1 + e 6 - (e 2 + e 5) + (e 0 + e 7 - (e 3 + e 4))) 181 (8 * b) (by omega) (by decide)
  have hz5 := scaled8_bounds (e 3 - e 4 + (e 2 - e 5) - (e 1 - e 6 + (e 0 - e 7))) 98 (8 * b) (by omega) (by decide)
  have hz2 := scaled8_bounds (e 3 - e 4 + (e 2 - e 5)) 139 (4 * b) (by omega) (by decide)
  have hz4 := scaled8_bounds (e 1 - e 6 + (e 0 - e 7)) 334 (4 * b) (by omega) (by decide)
  have hz3 := scaled8_bounds (e 2 - e 5 + (e 1 - e 6)) 181 (4 * b) (by omega) (by decide)
  rcases lt_eight_cases hk with rfl | rfl | rfl | rfl | rfl | rfl | rfl | rfl <;> simp only [fastForward] <;> omega

theorem at8_fdctIfastBlock (s : State) {u v : Nat} (hu : u < 8) (hv : v < 8) : at8 (fdctIfastBlock (fdctInput s)) u v =
    fastForward (fun y => fastForward (shifted s y) v) u := by
  rw [fdctInput_eq, fdctIfastBlock, at8_fdctPasses _ _ _ hu hv, fdctIfast1d_eq_fastForward _ hu]
  simp only [fdctIfast1d_eq_fastForward _ hv]

/-- The coefficients fit 16 bits, with room to spare (41_fdct.md R162). -/
theorem fdctIfastBlock_range (s : State) {u v : Nat} (hu : u < 8) (hv : v < 8) :
    -32768 ≤ at8 (fdctIfastBlock (fdctInput s)) u v ∧ at8 (fdctIfastBlock (fdctInput s)) u v ≤ 32767 := by
  have hrow : ∀ y, y < 8 → (fastForward (shifted s y) v).natAbs ≤ 14 * 128 + 4 := fun y _ =>
    natAbs_fastForward_le (fun x _ => natAbs_shifted_le s y x) hv
  have hcoefficient := natAbs_fastForward_le hrow hu
  rw [at8_fdctIfastBlock s hu hv]
  omega

theorem i16_after_fdctIfast (s : State) {u v : Nat} (hu : u < 8) (hv : v < 8) :
    i16 (writeCells s.mem (outputCells .fdctIfast s)) (s.dst0.toNat + 2 * (8 * u + v)) =
      at8 (fdctIfastBlock (fdctInput s)) u v := by
  obtain ⟨hlo, hhi⟩ := fdctIfastBlock_range s hu hv
  exact i16_fdctIntCells s _ hu hv hlo hhi

/-- Settles O31: both passes are the network, and its results are stored whole. -/
theorem fdctIfastOutput : Obligations.FdctIfastOutput := by
  unfold Obligations.FdctIfastOutput
  intro s h
  refine ⟨_, exec_of_accepts h rfl, fun u v hu hv => ?_, sameOutside_outputCells rfl⟩
  rw [i16_after_fdctIfast s hu hv, at8_fdctIfastBlock s hu hv]

end Sys2Proof.Proofs
end

section
/-! PROOF. Integers as binary32 values: every 16-bit integer has one that stands for it exactly, and sums inside the 16 bits are
exact (43_idct.md R201, 00_scope.md R12). -/

namespace Sys2Proof.Proofs

open Machine Claims

/-- What the encoding of a sign and a finite magnitude stands for. -/
theorem units_signed_min (neg : Bool) {b : Nat} (hb : b < 255 * 2 ^ 23) :
    isFinite (BitVec.ofNat 32 (signBit neg + min b 2139095040)) ∧
      units (BitVec.ofNat 32 (signBit neg + min b 2139095040)) = signed neg (magnitudeUnits b) := by
  have hr := toNat_signed_min neg b
  generalize BitVec.ofNat 32 (signBit neg + min b 2139095040) = r at hr
  have hsign : isNegative r = neg := by
    cases neg
    · exact decide_eq_false (by rw [hr, signBit_false]; omega)
    · exact decide_eq_true (by rw [hr, signBit_true]; omega)
  have hmag : r.toNat % 2 ^ 31 = b := by
    rw [hr]; cases neg <;> simp only [signBit_true, signBit_false] <;> omega
  exact ⟨(isFinite_iff r).mpr (by omega), by rw [units_eq_signed, hsign, hmag]⟩

/-- The last place of a magnitude of up to 24 bits is at most its exponent: shifted there it still has 24 bits, all of them unless
the place is the least. -/
theorem exists_shift_to_lastPlace {m : Nat} (k : Nat) (h0 : m ≠ 0) (hm : m < 2 ^ 24) : ∃ j : Nat, j ≤ k ∧
    lastPlace m ((k : Int) - 149) = ((k - j : Nat) : Int) - 149 ∧ m * 2 ^ j < 2 ^ 24 ∧ (k - j = 0 ∨ 2 ^ 23 ≤ m * 2 ^ j) := by
  have hlog : m.log2 < 24 := (Nat.log2_lt h0).mpr hm
  obtain ⟨j, hjk, hshort, hnormal⟩ : ∃ j, j ≤ k ∧ m.log2 + j ≤ 23 ∧ (k - j = 0 ∨ m.log2 + j = 23) :=
    ⟨min k (23 - m.log2), by omega⟩
  refine ⟨j, hjk, by unfold lastPlace; omega, ?_, hnormal.imp_right fun h23 => ?_⟩
  · calc m * 2 ^ j < 2 ^ (m.log2 + 1) * 2 ^ j := Nat.mul_lt_mul_of_pos_right Nat.lt_log2_self (Nat.two_pow_pos j)
      _ = 2 ^ (m.log2 + 1 + j) := (Nat.pow_add ..).symm
      _ ≤ 2 ^ 24 := Nat.pow_le_pow_right (by decide) (by omega)
  · calc 2 ^ 23 = 2 ^ m.log2 * 2 ^ j := by rw [← Nat.pow_add, h23]
      _ ≤ m * 2 ^ j := Nat.mul_le_mul_right _ (Nat.log2_self_le h0)

/-- A magnitude of up to 24 bits, not too large, is rounded to itself. -/
theorem roundFloat_exact (neg : Bool) {m k : Nat} (h0 : m ≠ 0) (hm : m < 2 ^ 24) (hk : k ≤ 253) :
    isFinite (roundFloat neg m ((k : Int) - 149)) ∧ units (roundFloat neg m ((k : Int) - 149)) = signed neg (m * 2 ^ k) := by
  obtain ⟨j, hjk, hplace, hdigits, hleading⟩ := exists_shift_to_lastPlace k h0 hm
  have hbits : (k - j) * 2 ^ 23 + m * 2 ^ j < 255 * 2 ^ 23 := by omega
  have hround : roundFloat neg m ((k : Int) - 149) =
      BitVec.ofNat 32 (signBit neg + min ((k - j) * 2 ^ 23 + m * 2 ^ j) 2139095040) := by
    simp only [roundFloat, h0, if_false, hplace]
    rw [if_pos (by omega), show ((k : Int) - 149 - (((k - j : Nat) : Int) - 149)).toNat = j by omega,
      show (((k - j : Nat) : Int) - 149 + 149).toNat = k - j by omega]
    rfl
  have hunits : magnitudeUnits ((k - j) * 2 ^ 23 + m * 2 ^ j) = m * 2 ^ k := by
    rw [magnitudeUnits_digits (Nat.le_of_lt hdigits) hleading, Nat.mul_assoc, ← Nat.pow_add, Nat.add_sub_cancel' hjk]
  rw [hround, ← hunits]
  exact units_signed_min neg hbits

/-- The encoding stands for this integer. -/
def StandsFor (x : F32) (n : Int) : Prop := isFinite x ∧ units x = n * 2 ^ 149

theorem standsFor_zero (neg : Bool) : StandsFor (floatZero neg) 0 := by
  unfold StandsFor isFinite; cases neg <;> decide

theorem standsFor_floatOfInt {n : Int} (hlo : -32768 ≤ n) (hhi : n ≤ 32767) : StandsFor (floatOfInt n) n := by
  by_cases h0 : n = 0
  · subst h0; exact standsFor_zero false
  · obtain ⟨hfin, hunits⟩ := roundFloat_exact (decide (n < 0)) (m := n.natAbs) (k := 149) (by omega) (by omega) (by decide)
    refine ⟨hfin, hunits.trans ?_⟩
    rw [← signed_mul_natCast, signed_natAbs]
    rfl

/-- `IntegersAreExact`, which `FdctFloatOutput` and two statements on inverse transforms share. -/
theorem integersAreExact : IntegersAreExact := by
  intro n hlo hhi
  obtain ⟨hfin, hunits⟩ := standsFor_floatOfInt hlo hhi
  exact ⟨hfin, hunits, fun h0 => h0 ▸ rfl⟩

/-- A value rounded is itself where some finite encoding stands for it. -/
theorem units_eq_of_roundsTo {r x : F32} {num : Int} (h : RoundsTo r num 1) (hx : isFinite x) (hu : units x = num)
    (hsmall : num.natAbs < (2 ^ 25 - 1) * 2 ^ 252) : isFinite r ∧ units r = num := by
  obtain ⟨-, -, hnear⟩ := h
  obtain ⟨hfin, hle⟩ := hnear (by omega)
  obtain ⟨hdist, -⟩ := hle x hx
  unfold distance at hdist
  exact ⟨hfin, by omega⟩

/-- A sum of integers inside the 16 bits is exact. -/
theorem StandsFor.add {a b : F32} {m n : Int} (ha : StandsFor a m) (hb : StandsFor b n) (hlo : -32768 ≤ m + n)
    (hhi : m + n ≤ 32767) : StandsFor (fadd a b) (m + n) := by
  obtain ⟨hfa, hua⟩ := ha
  obtain ⟨hfb, hub⟩ := hb
  have hsum : units a + units b = (m + n) * 2 ^ 149 := by rw [hua, hub, Int.add_mul]
  by_cases h0 : m + n = 0
  · rw [fadd_zero_sum hfa hfb (by omega), h0]
    exact standsFor_zero _
  · obtain ⟨hfx, hux⟩ := standsFor_floatOfInt hlo hhi
    rw [← hsum] at hux
    rw [StandsFor, ← hsum]
    exact units_eq_of_roundsTo (fadd_roundsTo hfa hfb (by omega)) hfx hux (by omega)

/-- An exact cancellation gives `+0.0` (41_fdct.md R159). -/
theorem fsub_self {a : F32} (h : isFinite a) : fsub a a = 0x00000000#32 := by
  rw [fsub, fadd_zero_sum h ((isFinite_fneg a).mpr h) (by rw [units_fneg]; omega), isNegative_fneg, Bool.and_not_self]
  rfl

end Sys2Proof.Proofs
end

section
/-! PROOF. `FDCT_FLOAT` completes with its network in binary32 (O32; 41_fdct.md R159). -/

namespace Sys2Proof.Proofs

open Machine Machine.Memory Claims

theorem fdctFloat1d_eq_floatForward (e : Nat → F32) {k : Nat} (hk : k < 8) :
    onIndices fdctFloat1d e k = floatForward e k := by
  rcases lt_eight_cases hk with rfl | rfl | rfl | rfl | rfl | rfl | rfl | rfl <;> rfl

theorem at8_fdctFloatBlock (d : Nat → Nat → Int) {u v : Nat} (hu : u < 8) (hv : v < 8) :
    at8 (fdctFloatBlock (block8 d)) u v = floatForward (fun y => floatForward (fun x => floatOfInt (d y x)) v) u := by
  have hin : map8 (map8 floatOfInt) (block8 d) = block8 fun y x => floatOfInt (d y x) := rfl
  rw [fdctFloatBlock, hin, at8_fdctPasses _ _ _ hu hv, fdctFloat1d_eq_floatForward _ hu]
  simp only [fdctFloat1d_eq_floatForward _ hv]

/-- Settles O32: 16-bit integers are exact in binary32, and both passes are the network. -/
theorem fdctFloatOutput : Obligations.FdctFloatOutput := by
  unfold Obligations.FdctFloatOutput
  refine ⟨integersAreExact, fun s h => ⟨_, exec_of_accepts h rfl, fun u v hu hv => ?_, sameOutside_outputCells rfl⟩⟩
  exact (f32_fdctFloatCells s _ hu hv).trans (at8_fdctFloatBlock (shifted s) hu hv)

end Sys2Proof.Proofs
end

section
/-! PROOF. The flat-block law of the three forward DCTs, from what each computes (O33; 41_fdct.md R161). -/

namespace Sys2Proof.Proofs

open Machine Machine.Memory Claims

/-- Every row of the transform but the first sums to 0. -/
theorem dot_forwardWeights_const (n : Int) {k : Nat} (hk : k < 8) :
    dot (forwardWeights k) (fun _ => n) = if k = 0 then 8 * n else 0 := by
  rcases Nat.eq_zero_or_pos k with rfl | h0
  · simp only [forwardWeights, dot, if_true]; omega
  · rw [if_neg (Nat.ne_of_gt h0)]
    rcases pos_lt_eight_cases h0 hk with rfl | rfl | rfl | rfl | rfl | rfl | rfl <;>
      simp only [forwardWeights, dot] <;> omega

theorem islowRow_const (n : Int) (k : Nat) (hk : k < 8) :
    onIndices (fdctIslow1d (fun x => shl x 2) 11) (fun _ => n) k = if k = 0 then 32 * n else 0 := by
  rw [islowRow_eq _ hk, dot_forwardWeights_const n hk]
  omega

theorem islowColumn_const (n : Int) (k : Nat) (hk : k < 8) :
    onIndices (fdctIslow1d (fun x => descale x 2) 15) (fun _ => n) k = if k = 0 then 2 * n else 0 := by
  rw [islowColumn_eq _ hk, dot_forwardWeights_const n hk]
  omega

theorem ifastPass_const (n : Int) (k : Nat) (hk : k < 8) :
    onIndices fdctIfast1d (fun _ => n) k = if k = 0 then 8 * n else 0 := by
  rw [fdctIfast1d_eq_fastForward _ hk]
  rcases Nat.eq_zero_or_pos k with rfl | h0
  · simp only [fastForward, if_true]; omega
  · rw [if_neg (Nat.ne_of_gt h0)]
    rcases pos_lt_eight_cases h0 hk with rfl | rfl | rfl | rfl | rfl | rfl | rfl <;>
      simp only [fastForward, scaled8] <;> omega

/-- The differences of a constant row vanish, and with them every output but the first. -/
theorem floatForward_const {a : F32} {n : Int} (h : StandsFor a n) (hlo : -4096 ≤ n) (hhi : n ≤ 4095) :
    StandsFor (floatForward (fun _ => a) 0) (8 * n) ∧
      ∀ k, 0 < k → k < 8 → floatForward (fun _ => a) k = 0x00000000#32 := by
  have hpair := h.add h (by omega) (by omega)
  have hfour := hpair.add hpair (by omega) (by omega)
  have height := hfour.add hfour (by omega) (by omega)
  have ha := fsub_self h.1
  have hpair0 := fsub_self hpair.1
  have hfour0 := fsub_self hfour.1
  refine ⟨?_, fun k h0 hk => ?_⟩
  · rw [show 8 * n = n + n + (n + n) + (n + n + (n + n)) by omega]
    exact height
  · rcases pos_lt_eight_cases h0 hk with rfl | rfl | rfl | rfl | rfl | rfl | rfl <;>
      simp only [floatForward, ha, hpair0, hfour0] <;> rfl

/-- The samples of a flat block, level-shifted. -/
theorem fdctInput_flat {s : State} {n : Int} (h : ∀ y x, y < 8 → x < 8 → shifted s y x = n) :
    fdctInput s = block8 fun _ _ => n := block8_congr h

/-- Two passes that multiply a constant by `a` and by `b` in their first output and give 0 in the others. -/
theorem at8_fdctPasses_flat {f1 f2 : V8 Int → V8 Int} {a b : Int} (n : Int)
    (h1 : ∀ n k, k < 8 → onIndices f1 (fun _ => n) k = if k = 0 then a * n else 0)
    (h2 : ∀ n k, k < 8 → onIndices f2 (fun _ => n) k = if k = 0 then b * n else 0) {u v : Nat} (hu : u < 8) (hv : v < 8) :
    at8 (fdctPasses f1 f2 (block8 fun _ _ => n)) u v = if u = 0 ∧ v = 0 then b * (a * n) else 0 := by
  rw [at8_fdctPasses _ _ _ hu hv, h1 n v hv, h2 _ u hu]
  by_cases hv0 : v = 0 <;> simp [hv0]

theorem fdctIslowBlock_flat {s : State} {n : Int} (h : ∀ y x, y < 8 → x < 8 → shifted s y x = n) {u v : Nat} (hu : u < 8)
    (hv : v < 8) : at8 (fdctIslowBlock (fdctInput s)) u v = if u = 0 ∧ v = 0 then 64 * n else 0 := by
  rw [fdctInput_flat h, fdctIslowBlock, at8_fdctPasses_flat n islowRow_const islowColumn_const hu hv, ← Int.mul_assoc]
  rfl

theorem fdctIfastBlock_flat {s : State} {n : Int} (h : ∀ y x, y < 8 → x < 8 → shifted s y x = n) {u v : Nat} (hu : u < 8)
    (hv : v < 8) : at8 (fdctIfastBlock (fdctInput s)) u v = if u = 0 ∧ v = 0 then 64 * n else 0 := by
  rw [fdctInput_flat h, fdctIfastBlock, at8_fdctPasses_flat n ifastPass_const ifastPass_const hu hv, ← Int.mul_assoc]
  rfl

/-- The float network on a flat block: the DC coefficient stands for `64n`, every other one is `+0.0`. -/
theorem fdctFloatBlock_flat {s : State} {n : Int} (h : ∀ y x, y < 8 → x < 8 → shifted s y x = n) (hlo : -128 ≤ n)
    (hhi : n ≤ 127) : StandsFor (at8 (fdctFloatBlock (fdctInput s)) 0 0) (64 * n) ∧
      ∀ u v, u < 8 → v < 8 → ¬ (u = 0 ∧ v = 0) → at8 (fdctFloatBlock (fdctInput s)) u v = 0x00000000#32 := by
  rw [fdctInput_flat h]
  obtain ⟨hrow, hrowAc⟩ := floatForward_const (standsFor_floatOfInt (n := n) (by omega) (by omega)) (by omega) (by omega)
  obtain ⟨hcolumn, hcolumnAc⟩ := floatForward_const hrow (by omega) (by omega)
  refine ⟨?_, fun u v hu hv hne => ?_⟩
  · rw [at8_fdctFloatBlock _ (by decide) (by decide), show 64 * n = 8 * (8 * n) by omega]
    exact hcolumn
  · rw [at8_fdctFloatBlock _ hu hv]
    rcases Nat.eq_zero_or_pos v with rfl | hv0
    · exact hcolumnAc u (by omega) hu
    · rw [hrowAc v hv0 hv]
      rcases lt_eight_cases hu with rfl | rfl | rfl | rfl | rfl | rfl | rfl | rfl <;> rfl

/-- Settles O33: on a flat block each pass has only its first output, and the two passes together multiply the sample by 64. -/
theorem flatBlockLaw : Obligations.FlatBlockLaw := by
  unfold Obligations.FlatBlockLaw
  intro s c hflat
  refine ⟨?_, fun h => ⟨_, exec_of_accepts h rfl, ?_⟩⟩
  · rintro i (rfl | rfl) h
    · refine ⟨_, exec_of_accepts h rfl, fun u v hu hv => ?_⟩
      rw [i16_after_fdctIslow s hu hv, fdctIslowBlock_flat hflat hu hv]
    · refine ⟨_, exec_of_accepts h rfl, fun u v hu hv => ?_⟩
      rw [i16_after_fdctIfast s hu hv, fdctIfastBlock_flat hflat hu hv]
  · have hrange := hflat 0 0 (by decide) (by decide) ▸ shifted_range s 0 0
    obtain ⟨hdc, hac⟩ := fdctFloatBlock_flat hflat hrange.1 hrange.2
    have hread := fun u v hu hv => f32_fdctFloatCells s (fdctFloatBlock (fdctInput s)) (u := u) (v := v) hu hv
    rw [← hread 0 0 (by decide) (by decide)] at hdc
    exact ⟨hdc.1, hdc.2, fun u v hu hv hne => (hread u v hu hv).trans (hac u v hu hv hne)⟩

end Sys2Proof.Proofs
end

section
/-! PROOF. The entries of the integer quantizer's table: what each kind of divisor gives, the bounds of the fields, and exact
division by a rounded reciprocal (O37; 42_quant.md R181, R184, R189, R191). -/

namespace Sys2Proof.Proofs

open Machine Claims

/-- The divisors of a power of two are powers of two. -/
theorem eq_two_pow_of_dvd {d n : Nat} (h : d ∣ 2 ^ n) : ∃ j, d = 2 ^ j := by
  induction n generalizing d with
  | zero => exact ⟨0, Nat.dvd_one.mp h⟩
  | succ n ih =>
    rw [Nat.pow_succ, Nat.mul_comm] at h
    rcases Nat.mod_two_eq_zero_or_one d with heven | hodd
    · obtain ⟨e, rfl⟩ := Nat.dvd_of_mod_eq_zero heven
      obtain ⟨j, rfl⟩ := ih (Nat.dvd_of_mul_dvd_mul_left (by decide) h)
      exact ⟨j + 1, by rw [Nat.pow_succ, Nat.mul_comm]⟩
    · have hcoprime : Nat.Coprime d 2 := by
        rw [Nat.Coprime, Nat.gcd_comm, Nat.gcd_rec, hodd, Nat.gcd_one_left]
      exact ih (hcoprime.dvd_of_dvd_mul_left h)

section

variable {d b : Nat} (hlo : 2 ^ b ≤ d) (hhi : d < 2 ^ (b + 1))

include hlo hhi

theorem log2_of_bounds : Nat.log2 d = b :=
  (Nat.log2_eq_iff (Nat.ne_zero_of_lt (Nat.lt_of_lt_of_le (Nat.two_pow_pos b) hlo))).mpr ⟨hlo, hhi⟩

/-- A divisor leaves no remainder exactly where it is a power of two. -/
theorem two_pow_mod_eq_zero_iff : 2 ^ (16 + b) % d = 0 ↔ d = 2 ^ b := by
  constructor
  · intro h
    obtain ⟨j, rfl⟩ := eq_two_pow_of_dvd (Nat.dvd_of_mod_eq_zero h)
    have hbj := (Nat.pow_le_pow_iff_right (by decide)).mp hlo
    have hjb := (Nat.pow_lt_pow_iff_right (by decide)).mp hhi
    rw [Nat.le_antisymm (Nat.le_of_lt_succ hjb) hbj]
  · rintro rfl
    rw [Nat.pow_add, Nat.mul_mod_left]

/-- The three kinds of divisor of at least 2, with `b` the logarithm, and the entry of each (42_quant.md R189). -/
theorem prepareEntry_cases (h2 : 2 ≤ d) :
    (d = 2 ^ b ∧ prepareEntry d = ⟨2 ^ 15, (d / 2 : Nat), (b : Int) - 1⟩) ∨
    (d ≠ 2 ^ b ∧ 2 ^ (16 + b) % d ≤ d / 2 ∧ prepareEntry d = ⟨(2 ^ (16 + b) / d : Nat), (d / 2 : Nat) + 1, b⟩) ∨
    (d ≠ 2 ^ b ∧ d / 2 < 2 ^ (16 + b) % d ∧ prepareEntry d = ⟨(2 ^ (16 + b) / d : Nat) + 1, (d / 2 : Nat), b⟩) := by
  have hlog := log2_of_bounds hlo hhi
  have hshift : ((16 + b : Nat) : Int) - 16 = b := by omega
  rw [prepareEntry, if_neg (by omega)]
  simp only [hlog, Nat.pow_eq, two_pow_mod_eq_zero_iff hlo hhi, hshift]
  by_cases hexact : d = 2 ^ b
  · have hhalf : 2 ^ (16 + b) / d / 2 = 2 ^ 15 := by
      rw [hexact, Nat.pow_add]
      exact congrArg (· / 2) (Nat.mul_div_cancel _ (Nat.two_pow_pos b))
    have hless : ((16 + b : Nat) : Int) - 17 = b - 1 := by omega
    rw [if_pos hexact, hhalf, hless]
    exact .inl ⟨hexact, rfl⟩
  · rw [if_neg hexact]
    by_cases hdown : 2 ^ (16 + b) % d ≤ d / 2
    · exact .inr (.inl ⟨hexact, hdown, if_pos hdown⟩)
    · exact .inr (.inr ⟨hexact, by omega, if_neg hdown⟩)

end

/-- The bounds on the fields of an entry of divisor `d`, and on the error `err` by which `recip * d` misses `2^(16+shift)`: it is
small enough for every `|x| <= 32768` (42_quant.md R184, R191). -/
structure ReciprocalBounds (d recip shift err : Nat) : Prop where
  shift_le : shift ≤ 15
  recip_ge : 2 ^ 15 ≤ recip
  recip_lt : recip < 2 ^ 16
  err_le : err ≤ d / 2
  err_mul_lt : err * (32769 + d / 2) < 2 ^ (16 + shift)

theorem err_mul_lt_of_bounds {d b err : Nat} (hhi : d < 2 ^ (b + 1)) (hb : b ≤ 15) (herr : err ≤ d / 2) :
    err * (32769 + d / 2) < 2 ^ (16 + b) := by
  have hpow : 2 ^ b ≤ 2 ^ 15 := Nat.pow_le_pow_right (by decide) hb
  rw [Nat.pow_succ] at hhi
  calc err * (32769 + d / 2) ≤ err * 2 ^ 16 := Nat.mul_le_mul_left err (by omega)
    _ < 2 ^ b * 2 ^ 16 := Nat.mul_lt_mul_of_pos_right (by omega) (by decide)
    _ = 2 ^ (16 + b) := by rw [Nat.mul_comm, Nat.pow_add]

/-- The entry of a divisor of at least 2: a reciprocal that is too small and a raised correction, or one that is exact or too
large and half the divisor (42_quant.md R189). -/
theorem prepareEntry_reciprocal {d : Nat} (h2 : 2 ≤ d) (hd : d ≤ 65535) : ∃ recip shift err : Nat,
    ReciprocalBounds d recip shift err ∧
      ((0 < err ∧ recip * d + err = 2 ^ (16 + shift) ∧ prepareEntry d = ⟨recip, (d / 2 : Nat) + 1, shift⟩) ∨
        (recip * d = 2 ^ (16 + shift) + err ∧ prepareEntry d = ⟨recip, (d / 2 : Nat), shift⟩)) := by
  obtain ⟨b, hlo, hhi⟩ : ∃ b, 2 ^ b ≤ d ∧ d < 2 ^ (b + 1) :=
    ⟨Nat.log2 d, Nat.log2_self_le (by omega), Nat.lt_log2_self⟩
  have hb0 : b ≠ 0 := by rintro rfl; omega
  have hb16 : b < 16 := (Nat.pow_lt_pow_iff_right (by decide)).mp (Nat.lt_of_le_of_lt hlo (by omega : d < 2 ^ 16))
  have hpow : 2 ^ (16 + b) = 65536 * 2 ^ b := Nat.pow_add 2 16 b
  have hdiv := Nat.div_add_mod' (2 ^ (16 + b)) d
  have hmod := Nat.mod_lt (2 ^ (16 + b)) (by omega : 0 < d)
  have hsucc : 2 ^ (b + 1) = 2 ^ b * 2 := Nat.pow_succ ..
  have hge : 2 ^ 15 ≤ 2 ^ (16 + b) / d := (Nat.le_div_iff_mul_le (by omega)).mpr (by omega)
  have hrem := two_pow_mod_eq_zero_iff hlo hhi
  rcases prepareEntry_cases hlo hhi h2 with ⟨hexact, hentry⟩ | ⟨hne, hdown, hentry⟩ | ⟨hne, hup, hentry⟩
  · obtain ⟨c, rfl⟩ := Nat.exists_eq_succ_of_ne_zero hb0
    have herr : 0 * (32769 + d / 2) < 2 ^ (16 + c) := by rw [Nat.zero_mul]; exact Nat.two_pow_pos _
    refine ⟨2 ^ 15, c, 0, ⟨by omega, Nat.le_refl _, by decide, Nat.zero_le _, herr⟩, .inr ⟨?_, ?_⟩⟩
    · rw [hexact, ← Nat.pow_add]; congr 1; omega
    · rw [hentry]; congr 1; omega
  · have hlt : 2 ^ (16 + b) / d < 2 ^ 16 := (Nat.div_lt_iff_lt_mul (by omega)).mpr (by omega)
    exact ⟨2 ^ (16 + b) / d, b, 2 ^ (16 + b) % d, ⟨by omega, hge, hlt, hdown, err_mul_lt_of_bounds hhi (by omega) hdown⟩,
      .inl ⟨by omega, hdiv, hentry⟩⟩
  · have hlt : 2 ^ (16 + b) / d < 2 ^ 16 - 1 := (Nat.div_lt_iff_lt_mul (by omega)).mpr (by omega)
    have herr : d - 2 ^ (16 + b) % d ≤ d / 2 := by omega
    exact ⟨2 ^ (16 + b) / d + 1, b, d - 2 ^ (16 + b) % d,
      ⟨by omega, by omega, by omega, herr, err_mul_lt_of_bounds hhi (by omega) herr⟩,
      .inr ⟨by rw [Nat.add_mul]; omega, by rw [hentry]; rfl⟩⟩

theorem prepareEntry_one : prepareEntry 1 = ⟨1, 0, -16⟩ := rfl

/-- Settles O37: the reciprocal's bounds, and a product that misses `2^(16+shift)` by at most half the divisor. -/
theorem preparedEntryFits : Obligations.PreparedEntryFits := by
  unfold Obligations.PreparedEntryFits
  intro d h1 hd
  rcases Nat.lt_or_eq_of_le h1 with h2 | rfl
  · obtain ⟨recip, shift, err, ⟨hshift, hge, hlt, herr, -⟩, h⟩ := prepareEntry_reciprocal h2 hd
    have hcast : (2 : Int) ^ (16 + shift) = (2 ^ (16 + shift) : Nat) := by rw [Int.natCast_pow]; rfl
    rcases h with ⟨-, hprod, hentry⟩ | ⟨hprod, hentry⟩ <;>
      simp only [hentry, Int.toNat_natCast, hcast, ← Int.natCast_mul] <;>
      omega
  · decide

/-- A number lies between its quotient's multiple of the divisor and the next one. -/
theorem div_eq_of_scaled_bounds {n d p q : Nat} (hd : 0 < d) (hlo : q * d * p ≤ n * d) (hhi : n * d < (q + 1) * d * p) :
    n / p = q := by
  rw [Nat.mul_right_comm] at hlo hhi
  exact Nat.div_eq_of_lt_le (Nat.le_of_mul_le_mul_right hlo hd) (Nat.lt_of_mul_lt_mul_right hhi)

/-- Division by a reciprocal that is too small, of one more than the dividend. -/
theorem mul_div_of_recip_below {recip d err p n : Nat} (h : recip * d + err = p) (h0 : 0 < err) (hd : 0 < d)
    (hbound : err * (n + 1) ≤ p) : (n + 1) * recip / p = n / d := by
  have hprod : (n + 1) * recip * d + err * (n + 1) = (n + 1) * p := by
    rw [← h, Nat.mul_add (n + 1), Nat.mul_assoc, Nat.mul_comm err]
  have hpos : 0 < err * (n + 1) := Nat.mul_pos h0 (Nat.succ_pos n)
  have hlo : n / d * d * p ≤ n * p := Nat.mul_le_mul_right p (Nat.div_mul_le_self n d)
  have hhi : (n + 1) * p ≤ (n / d + 1) * d * p := Nat.mul_le_mul_right p (Nat.lt_mul_of_div_lt (Nat.lt_succ_self _) hd)
  rw [Nat.add_mul n 1 p, Nat.one_mul] at hprod hhi
  exact div_eq_of_scaled_bounds hd (by omega) (by omega)

/-- Division by a reciprocal that is exact or too large. -/
theorem mul_div_of_recip_above {recip d err p n : Nat} (h : recip * d = p + err) (hd : 0 < d) (hbound : err * n < p) :
    n * recip / p = n / d := by
  have hprod : n * recip * d = n * p + err * n := by rw [Nat.mul_assoc, h, Nat.mul_add, Nat.mul_comm n err]
  have hlo : n / d * d * p ≤ n * p := Nat.mul_le_mul_right p (Nat.div_mul_le_self n d)
  have hhi : (n + 1) * p ≤ (n / d + 1) * d * p := Nat.mul_le_mul_right p (Nat.lt_mul_of_div_lt (Nat.lt_succ_self _) hd)
  rw [Nat.add_mul, Nat.one_mul] at hhi
  exact div_eq_of_scaled_bounds hd (by omega) (by omega)

/-- `m / d` rounded half up (42_quant.md R184). -/
theorem half_up_eq {d : Nat} (m : Nat) : (2 * m + d) / (2 * d) = (m + d / 2) / d := by
  rw [← Nat.div_div_eq_div_mul]
  congr 1
  omega

/-- What `QUANT_INT` computes with an entry whose fields are natural numbers (42_quant.md R182). -/
theorem quantInt_natCast (recip corr shift : Nat) (x : Int) :
    quantInt ⟨recip, corr, (shift : Int) - 16⟩ x =
      if x < 0 then -(((x.natAbs + corr) * recip / 2 ^ shift : Nat) : Int)
      else (((x.natAbs + corr) * recip / 2 ^ shift : Nat) : Int) := by
  have hshift : shiftBy (((x.natAbs : Int) + corr) * recip) ((shift : Int) - 16 + 16) =
      (((x.natAbs + corr) * recip / 2 ^ shift : Nat) : Int) := by
    rw [show (shift : Int) - 16 + 16 = shift by omega, shiftBy, if_pos (Int.natCast_nonneg _), asr_eq, Int.toNat_natCast,
      ← Int.natCast_add, ← Int.natCast_mul, ← Int.natCast_ediv]
  simp only [quantInt, hshift]

/-- The fields of a prepared entry as natural numbers, and the division they stand for. -/
theorem prepareEntry_divides {d : Nat} (h1 : 1 ≤ d) (hd : d ≤ 65535) : ∃ recip corr shift : Nat,
    prepareEntry d = ⟨recip, corr, (shift : Int) - 16⟩ ∧
      ∀ m, m ≤ 32768 → (m + corr) * recip / 2 ^ shift = (2 * m + d) / (2 * d) := by
  rcases Nat.lt_or_eq_of_le h1 with h2 | rfl
  · obtain ⟨recip, shift, err, ⟨-, -, -, -, hbound⟩, h⟩ := prepareEntry_reciprocal h2 hd
    have hmul : ∀ n, n ≤ 32769 + d / 2 → err * n < 2 ^ (16 + shift) := fun n hn =>
      Nat.lt_of_le_of_lt (Nat.mul_le_mul_left err hn) hbound
    have hshift : (shift : Int) = (16 + shift : Nat) - 16 := by omega
    rcases h with ⟨h0, hprod, hentry⟩ | ⟨hprod, hentry⟩
    · refine ⟨recip, d / 2 + 1, 16 + shift, by rw [hentry, ← hshift]; rfl, fun m hm => ?_⟩
      rw [half_up_eq, ← Nat.add_assoc, mul_div_of_recip_below hprod h0 h1 (Nat.le_of_lt (hmul _ (by omega)))]
    · refine ⟨recip, d / 2, 16 + shift, by rw [hentry, ← hshift], fun m hm => ?_⟩
      rw [half_up_eq, mul_div_of_recip_above hprod h1 (hmul _ (by omega))]
  · exact ⟨1, 0, 0, rfl, fun m _ => by omega⟩

/-- The exactness law on values (42_quant.md R184). -/
theorem quantInt_prepareEntry {d : Nat} {x : Int} (h1 : 1 ≤ d) (hd : d ≤ 65535) (hx : x.natAbs ≤ 32768) :
    quantInt (prepareEntry d) x = x.sign * (((2 * x.natAbs + d) / (2 * d) : Nat) : Int) := by
  obtain ⟨recip, corr, shift, hentry, hdiv⟩ := prepareEntry_divides h1 hd
  rw [hentry, quantInt_natCast, hdiv _ hx]
  rcases Int.lt_trichotomy x 0 with hneg | rfl | hpos
  · rw [if_pos hneg, Int.sign_eq_neg_one_of_neg hneg, Int.neg_one_mul]
  · have hzero : (2 * (0 : Int).natAbs + d) / (2 * d) = 0 := Nat.div_eq_of_lt (by omega)
    rw [hzero]; rfl
  · rw [if_neg (by omega), Int.sign_eq_one_of_pos hpos, Int.one_mul]

/-- A 16-bit value divided and rounded half up still fits 16 bits. -/
theorem rounded_quotient_range {d : Nat} {x : Int} (h1 : 1 ≤ d) (hlo : -32768 ≤ x) (hhi : x ≤ 32767) :
    -32768 ≤ x.sign * (((2 * x.natAbs + d) / (2 * d) : Nat) : Int) ∧
      x.sign * (((2 * x.natAbs + d) / (2 * d) : Nat) : Int) ≤ 32767 := by
  have hle : (2 * x.natAbs + d) / (2 * d) ≤ x.natAbs := by
    rw [half_up_eq]
    refine Nat.lt_succ_iff.mp ((Nat.div_lt_iff_lt_mul h1).mpr ?_)
    have hmul := Nat.mul_le_mul_left x.natAbs h1
    rw [Nat.succ_mul]
    omega
  generalize (2 * x.natAbs + d) / (2 * d) = q at hle
  rcases Int.lt_trichotomy x 0 with hneg | rfl | hpos
  · rw [Int.sign_eq_neg_one_of_neg hneg]; omega
  · rw [Int.sign_zero, Int.zero_mul]; decide
  · rw [Int.sign_eq_one_of_pos hpos]; omega

end Sys2Proof.Proofs
end

section
/-! PROOF. `QUANT_INT` and `QUANT_FLOAT` complete with their procedure on every element (O34, O35, O39). -/

namespace Sys2Proof.Proofs

open Machine Machine.Memory Claims

theorem i16_range (m : Memory) (a : Nat) : -32768 ≤ i16 m a ∧ i16 m a ≤ 32767 := by
  unfold i16 sext16
  split <;> omega

/-- Element `k` of a block of 64 stored 16-bit values. -/
theorem i16_block (m : Memory) (base : Nat) (value : Nat → Int) {k : Nat} (hk : k < 64) :
    i16 (writeCells m (gridCells 64 1 fun i _ => cellsLE (base + 2 * i) (wrap16 (value i)) 2)) (base + 2 * k) =
      wrap16 (value k) := by
  have hread : ∀ byte, byte < 2 → read (writeCells m (gridCells 64 1 fun i _ => cellsLE (base + 2 * i) (wrap16 (value i)) 2))
      (base + 2 * k + byte) = toByte (asr (wrap16 (value k)) (8 * byte)) := fun byte hbyte =>
    read_gridCells_cellsLE (addr := fun i _ => base + 2 * i) (value := fun i _ => wrap16 (value i)) m
      (fun i j i' j' _ _ _ _ _ _ => by omega) hk Nat.one_pos hbyte
  obtain ⟨hlo, hhi⟩ := wrap16_range (value k)
  rw [i16_of_bytes hread, wrap16_of_range hlo hhi]

theorem i16_after_quantInt (s : State) {k : Nat} (hk : k < 64) :
    i16 (writeCells s.mem (outputCells .quantInt s)) (s.dst0.toNat + 2 * k) =
      wrap16 (quantInt (readEntry s.mem s.tbl.toNat k) (i16 s.mem (s.src0.toNat + 2 * k))) := by
  rw [outputCells, quantIntCells, i16_block _ _ _ hk]

theorem i16_after_quantFloat (s : State) {k : Nat} (hk : k < 64) :
    i16 (writeCells s.mem (outputCells .quantFloat s)) (s.dst0.toNat + 2 * k) =
      wrap16 (quantFloat s.cfg.floatQuant (f32 s.mem (s.src0.toNat + 4 * k)) (f32 s.mem (s.tbl.toNat + 4 * k))) := by
  rw [outputCells, quantFloatCells, i16_block _ _ _ hk]

theorem shiftBy_eq (p s : Int) : shiftBy p s = if 0 ≤ s then p / 2 ^ s.toNat else p * 2 ^ (-s).toNat := by
  rw [shiftBy, asr_eq, shl_eq, Int.natCast_pow, Int.natCast_pow]
  rfl

/-- Settles O34: each element is stored by itself, and its value is the procedure's. -/
theorem quantIntOutput : Obligations.QuantIntOutput := by
  unfold Obligations.QuantIntOutput
  intro s h
  refine ⟨_, exec_of_accepts h rfl, fun k hk => ?_, sameOutside_outputCells rfl⟩
  rw [i16_after_quantInt s hk]
  simp only [quantInt, shiftBy_eq]
  rfl

/-- Settles O35: a prepared entry's reciprocal is close enough to divide exactly, and the quotient is stored whole. -/
theorem quantExactness : Obligations.QuantExactness := by
  unfold Obligations.QuantExactness
  refine ⟨fun d x => quantInt_prepareEntry, fun s d h htable => ⟨_, exec_of_accepts h rfl, fun k hk => ?_⟩⟩
  obtain ⟨h1, hd, hentry⟩ := htable k hk
  obtain ⟨hlo, hhi⟩ := i16_range s.mem (s.src0.toNat + 2 * k)
  obtain ⟨hqlo, hqhi⟩ := rounded_quotient_range h1 hlo hhi
  rw [i16_after_quantInt s hk, hentry, quantInt_prepareEntry h1 hd (by omega), wrap16_of_range hqlo hqhi]

/-- Truncation toward zero keeps the sign apart. -/
theorem tdiv_signed (neg : Bool) (m n : Nat) : Int.tdiv (signed neg m) n = signed neg (m / n) := by
  cases neg
  · rfl
  · rw [signed_true, signed_true, Int.neg_tdiv]; rfl

/-- The model's conversion is the one 42_quant.md R187 spells out. -/
theorem converts_cvt (v : F32) : Converts v (cvt v) := by
  refine ⟨fun hfin => ?_, fun h => by subst h; decide, fun h => by subst h; decide, fun hnan => ?_⟩
  · obtain ⟨m, k, -, hval, hunits⟩ := floatVal_of_isFinite hfin
    rw [hunits, show (2 : Int) ^ 149 = (2 ^ 149 : Nat) from rfl, tdiv_signed]
    simp only [cvt, hval]
    congr 1
    split
    · next hexp =>
      obtain ⟨j, rfl⟩ : ∃ j, k = j + 149 := ⟨k - 149, by omega⟩
      rw [Nat.pow_add, ← Nat.mul_assoc, Nat.mul_div_cancel _ (Nat.two_pow_pos 149),
        show (((j + 149 : Nat) : Int) - 149).toNat = j by omega]
      rfl
    · next hexp =>
      obtain ⟨j, hj⟩ : ∃ j, j + k = 149 := ⟨149 - k, by omega⟩
      rw [← hj, Nat.pow_add, Nat.mul_div_mul_right _ _ (Nat.two_pow_pos k), show (-((k : Int) - 149)).toNat = j by omega]
      rfl
  · rw [cvt, floatVal_of_isNan hnan]

theorem floatQuotient_eq (mode : FloatQuant) (w f : F32) :
    floatQuotient mode w f = if mode = .divide then fdiv w f else fmul w f := by
  cases mode <;> rfl

/-- Settles O39: each element is stored by itself, and its value is the conversion of the rounded quotient or product. -/
theorem quantFloatOutput : Obligations.QuantFloatOutput := by
  unfold Obligations.QuantFloatOutput
  intro s h
  refine ⟨_, exec_of_accepts h rfl, fun k hk => ⟨_, converts_cvt _, ?_⟩, sameOutside_outputCells rfl⟩
  rw [i16_after_quantFloat s hk, quantFloat, floatQuotient_eq]
  rfl

end Sys2Proof.Proofs
end

section
/-! PROOF. `QTBL_PREP` completes with a prepared table, or fails where a divisor is 0 (O36, O38). -/

namespace Sys2Proof.Proofs

open Machine Machine.Memory Claims

/-- The three fields of an entry in the order of their arrays (42_quant.md R180). -/
def entryField (q : QuantEntry) : Nat → Int
  | 0 => q.recip
  | 1 => q.corr
  | _ => q.shift

theorem mem_tableCells_iff {t : Nat} {entry : Nat → QuantEntry} {c : Host.Cell} : c ∈ tableCells t entry ↔
    ∃ array i byte, array < 3 ∧ i < 64 ∧ byte < 2 ∧
      c = (t + 128 * array + 2 * i + byte, toByte (asr (entryField (entry i) array) (8 * byte))) := by
  simp only [tableCells, mem_gridCells, List.mem_append, mem_cellsLE_iff]
  constructor
  · rintro ⟨i, _, hi, -, (⟨byte, hbyte, rfl⟩ | ⟨byte, hbyte, rfl⟩) | ⟨byte, hbyte, rfl⟩⟩
    · exact ⟨0, i, byte, by decide, hi, hbyte, rfl⟩
    · exact ⟨1, i, byte, by decide, hi, hbyte, rfl⟩
    · exact ⟨2, i, byte, by decide, hi, hbyte, rfl⟩
  · rintro ⟨array, i, byte, harray, hi, hbyte, rfl⟩
    obtain rfl | rfl | rfl : array = 0 ∨ array = 1 ∨ array = 2 := by omega
    · exact ⟨i, 0, hi, Nat.one_pos, .inl (.inl ⟨byte, hbyte, rfl⟩)⟩
    · exact ⟨i, 0, hi, Nat.one_pos, .inl (.inr ⟨byte, hbyte, rfl⟩)⟩
    · exact ⟨i, 0, hi, Nat.one_pos, .inr ⟨byte, hbyte, rfl⟩⟩

/-- Each byte of a table is read back: no two of its values meet. -/
theorem read_tableCells (m : Memory) (t : Nat) (entry : Nat → QuantEntry) {array i byte : Nat} (harray : array < 3)
    (hi : i < 64) (hbyte : byte < 2) : read (writeCells m (tableCells t entry)) (t + 128 * array + 2 * i + byte) =
      toByte (asr (entryField (entry i) array) (8 * byte)) := by
  refine read_writeCells_mem _ m
    ⟨_, mem_tableCells_iff.mpr ⟨array, i, byte, harray, hi, hbyte, rfl⟩, rfl⟩ fun c hc he => ?_
  obtain ⟨array', i', byte', -, hi', hbyte', rfl⟩ := mem_tableCells_iff.mp hc
  simp only at he
  obtain rfl : array' = array := by omega
  obtain rfl : i' = i := by omega
  obtain rfl : byte' = byte := by omega
  rfl

theorem divisor_le (s : State) (k : Nat) : divisor s k ≤ 65535 := Nat.le_of_lt_succ (readLE_lt s.mem _ 2)

/-- Every field of a prepared entry fits the 16 bits it is stored in (42_quant.md R181). -/
theorem prepareEntry_range {d : Nat} (h1 : 1 ≤ d) (hd : d ≤ 65535) :
    (0 ≤ (prepareEntry d).recip ∧ (prepareEntry d).recip < 65536) ∧
      (0 ≤ (prepareEntry d).corr ∧ (prepareEntry d).corr < 65536) ∧
      -32768 ≤ (prepareEntry d).shift ∧ (prepareEntry d).shift ≤ 32767 := by
  obtain ⟨hcorr0, hcorr, hone, hmore⟩ := preparedEntryFits d h1 hd
  rcases Nat.lt_or_eq_of_le h1 with h2 | rfl
  · obtain ⟨hge, hlt, hshift0, hshift, -⟩ := hmore h2
    omega
  · decide

/-- The table that `QTBL_PREP` writes holds the prepared entry of each divisor. -/
theorem readEntry_after_qtblPrep (s : State) {k : Nat} (hk : k < 64) (h0 : divisor s k ≠ 0) :
    readEntry (writeCells s.mem (outputCells .qtblPrep s)) s.dst0.toNat k = prepareEntry (divisor s k) := by
  obtain ⟨⟨hr0, hr⟩, ⟨hc0, hc⟩, hs0, hs⟩ := prepareEntry_range (Nat.pos_of_ne_zero h0) (divisor_le s k)
  have hread := fun array byte harray hbyte =>
    read_tableCells s.mem s.dst0.toNat (fun i => prepareEntry (divisor s i)) (array := array) (byte := byte) harray hk hbyte
  have hrecip := u16_of_bytes fun byte hbyte => hread 0 byte (by decide) hbyte
  have hcorr := u16_of_bytes fun byte hbyte => hread 1 byte (by decide) hbyte
  have hshift := i16_of_bytes fun byte hbyte => hread 2 byte (by decide) hbyte
  simp only [entryField, Nat.mul_zero, Nat.add_zero, Nat.mul_one, Nat.reduceMul] at hrecip hcorr hshift
  rw [Int.emod_eq_of_lt hr0 hr] at hrecip
  rw [Int.emod_eq_of_lt hc0 hc] at hcorr
  rw [wrap16_of_range hs0 hs] at hshift
  simp only [readEntry, outputCells, qtblPrepCells, hrecip, hcorr, hshift]

theorem divisorsOk_iff {s : State} : divisorsOk s = true ↔ ∀ k, k < 64 → u16 s.mem (s.src0.toNat + 2 * k) ≠ 0 := by
  simp only [divisorsOk, divisor, List.all_eq_true, List.mem_range, bne_iff_ne]

/-- Settles O36: each divisor's prepared entry is stored whole, and it is what 42_quant.md R189 builds. -/
theorem qtblPrepOutput : Obligations.QtblPrepOutput := by
  unfold Obligations.QtblPrepOutput
  intro s h h0
  refine ⟨_, exec_of_accepts h (divisorsOk_iff.mpr h0), fun k hk => ?_, sameOutside_outputCells rfl⟩
  have hentry := readEntry_after_qtblPrep s hk (h0 k hk)
  generalize writeCells s.mem (outputCells .qtblPrep s) = m at hentry ⊢
  unfold divisor readEntry at hentry
  generalize u16 s.mem (s.src0.toNat + 2 * k) = d at hentry ⊢
  refine ⟨?_, fun b hlo hhi h2 => ?_⟩
  · rintro rfl
    obtain ⟨hrecip, hcorr, hshift⟩ := QuantEntry.mk.inj (hentry.trans prepareEntry_one)
    exact ⟨by omega, by omega, hshift⟩
  · have hrem := two_pow_mod_eq_zero_iff hlo hhi
    rcases prepareEntry_cases hlo hhi h2 with ⟨hexact, hprep⟩ | ⟨hne, hdown, hprep⟩ | ⟨hne, hup, hprep⟩ <;>
      obtain ⟨hrecip, hcorr, hshift⟩ := QuantEntry.mk.inj (hentry.trans hprep)
    · exact ⟨fun _ => ⟨by omega, by omega, hshift⟩, fun hne => absurd hexact hne, fun hup => by omega⟩
    · exact ⟨fun hexact => absurd hexact hne, fun _ _ => ⟨by omega, by omega, hshift⟩, fun hup => by omega⟩
    · exact ⟨fun hexact => absurd hexact hne, fun _ hdown => by omega, fun _ => ⟨by omega, by omega, hshift⟩⟩

/-- A check that a command fails has another code than the data check (60_exceptions.md R401, R403). -/
theorem code_ne_data_of_check {p : Plan} {size : Nat} {e : CmdError} (h : p.check size = some e) : e.code ≠ 0x07#8 := by
  rcases check_some_cases h with ⟨rfl, -⟩ | ⟨rfl, -⟩ | ⟨rfl, -⟩ | ⟨rfl, -⟩ <;> decide

/-- Settles O38: the data check comes after the others and is the only one that reports `ERR_DATA`. -/
theorem qtblPrepZeroDivisor : Obligations.QtblPrepZeroDivisor := by
  unfold Obligations.QtblPrepZeroDivisor
  rintro s ⟨k, hk, hzero⟩
  have hdata : dataCheck .qtblPrep s ≠ true := fun hok => divisorsOk_iff.mp hok k hk hzero
  rw [exec_eq_runCommand]
  unfold State.accepts
  rcases runCommand_cases (plan s .qtblPrep) (dataCheck .qtblPrep) (outputCells .qtblPrep) s with
    ⟨e, hc, h⟩ | ⟨hc, -, h⟩ | ⟨-, hd, -⟩
  · exact ⟨fun hnone => (nomatch hnone.symm.trans hc), fun _ => ⟨e.code, code_ne_data_of_check hc, h⟩⟩
  · exact ⟨fun _ => h, fun hsome => absurd hc hsome⟩
  · exact absurd hd hdata

end Sys2Proof.Proofs
end

section
/-! PROOF. Commands that write rows of samples: the state after one, each sample it writes, and the bytes it leaves alone. -/

namespace Sys2Proof.Proofs

open Machine Machine.Memory Claims

/-- The rows of an output of an accepted command do not overlap (20_memory.md R86). -/
theorem rows_apart_of_accepts {i : Instr} {s : State} {base : Word} {n stride w : Nat} (h : s.accepts i)
    (hout : rowRegion base n stride w ∈ (plan s i).outputs) : n ≤ 1 ∨ w ≤ stride := by
  obtain ⟨-, -, -, -, hself, -, -⟩ := check_none_iff_regions.mp h
  have hrows : ¬ (1 < n ∧ stride < w) := fun hn =>
    Bool.eq_false_iff.mp (hself _ hout) (selfOverlap_iff.mpr hn)
  omega

/-- A command without a data check whose output is the samples `value`, each in a byte's range, completes with them. -/
theorem samplesAgree_of_accepts {i : Instr} {s : State} {n w : Nat} {value : Nat → Nat → Int} (h : s.accepts i)
    (hdata : dataCheck i s = true) (hout : (plan s i).outputs = [rowRegion s.dst0 n s.ds0 w])
    (hcells : outputCells i s = sampleCells s.dst0.toNat s.ds0 n w value)
    (hvalue : ∀ r j, r < n → j < w → 0 ≤ value r j ∧ value r j ≤ 255) : SamplesAgree s i n w value := by
  refine ⟨_, exec_of_accepts h hdata, fun r j hr hj => ?_, fun a ha => ?_⟩ <;> rw [hcells]
  · have hrows := rows_apart_of_accepts (i := i) h (hout ▸ List.mem_singleton.mpr rfl)
    exact (congrArg byteVal (read_sampleCells s.mem value hrows hr hj)).trans
      (byteVal_toByte (hvalue r j hr hj).1 (hvalue r j hr hj).2)
  · exact read_sampleCells_other s.mem value ha

theorem limit_eq_limited (mode : RangeLimit) (x : Int) : limit mode x = limited mode x := by
  cases mode <;> simp only [limit, limited, clamp] <;> omega

theorem limited_range (mode : RangeLimit) (x : Int) : 0 ≤ limited mode x ∧ limited mode x ≤ 255 := by
  cases mode <;> simp only [limited] <;> omega

theorem fout_eq_floatLimited (mode : RangeLimit) (v : F32) : fout mode v = floatLimited mode (cvt v) := by
  cases mode
  · simp only [fout, floatLimited, clamp]; omega
  · rfl

theorem floatLimited_range (mode : RangeLimit) (x : Int) : 0 ≤ floatLimited mode x ∧ floatLimited mode x ≤ 255 := by
  cases mode <;> simp only [floatLimited] <;> omega

end Sys2Proof.Proofs
end

section
/-! PROOF. The two passes of an inverse DCT as a function of row and column (43_idct.md R204), and the integer variants whose passes
are rounded sums of products. -/

namespace Sys2Proof.Proofs

open Machine Machine.Memory Claims

/-- Sample `(y, x)` is output `x` of the second transform on the outputs `y` of the first on each column (43_idct.md R204). -/
theorem at8_idctPasses {α : Type} (g1 g2 : V8 α → V8 α) (z : Nat → Nat → α) {y x : Nat} (hy : y < 8) :
    at8 (idctPasses g1 g2 (block8 z)) y x = onIndices g2 (fun v => onIndices g1 (fun u => z u v) y) x := by
  rw [at8, idctPasses, get8_map8, transpose8_eq, get8_tabulate8 _ hy]
  rfl

theorem dequantInt_eq (s : State) : dequantInt s = block8 (dequantized s) := rfl

theorem descale_eq_pow (x : Int) (n : Nat) : descale x n = (x + 2 ^ (n - 1)) / 2 ^ n := by
  rw [descale_eq, Int.natCast_pow, Int.natCast_pow]
  rfl

/-- Sample `(y, x)` of an inverse transform of the block `z` whose passes are sums of products, rounded half up by `2^p1` and
`2^p2`. -/
def inverseSample (weights : Nat → List Int) (p1 p2 : Nat) (z : Nat → Nat → Int) (y x : Nat) : Int :=
  descale (dot (weights x) fun v => descale (dot (weights y) fun u => z u v) p1) p2

/-- An accepted inverse DCT with an output of `n` by `n` samples limited from `sample` completes with them (43_idct.md R202). -/
theorem samplesAgree_idct {i : Instr} {s : State} {n : Nat} {sample : Nat → Nat → Int} (h : s.accepts i)
    (hplan : plan s i = planIdctInt n s) (hdata : dataCheck i s = true)
    (hcells : outputCells i s = idctCells n s fun y x => limit s.cfg.rangeLimit (sample y x)) :
    SamplesAgree s i n n fun y x => limited s.cfg.rangeLimit (sample y x) := by
  simp only [limit_eq_limited] at hcells
  exact samplesAgree_of_accepts h hdata (hplan ▸ rfl) hcells fun _ _ _ _ => limited_range _ _

/-- A command whose network is the two passes of `inverseSample` on every block agrees with its weights. -/
theorem inverseAgrees_of_network {i : Instr} {n p1 p2 : Nat} {weights : Nat → List Int}
    {network : (Nat → Nat → Int) → Nat → Nat → Int}
    (hplan : ∀ s, plan s i = planIdctInt n s) (hdata : ∀ s, dataCheck i s = true)
    (hcells : ∀ s, outputCells i s = idctCells n s fun y x => limit s.cfg.rangeLimit (network (dequantized s) y x))
    (hnetwork : ∀ z y x, y < n → x < n → network z y x = inverseSample weights p1 p2 z y x) :
    InverseAgrees i n weights p1 p2 := by
  intro s h
  obtain ⟨m, hexec, hsample, hframe⟩ := samplesAgree_idct h (hplan s) (hdata s) (hcells s)
  refine ⟨fun k v => descale (dot (weights k) fun u => dequantized s u v) p1, m, hexec, fun k v _ _ => descale_eq_pow _ _,
    fun y x hy hx => ?_, hframe⟩
  rw [← descale_eq_pow, ← inverseSample, ← hnetwork _ y x hy hx]
  exact hsample y x hy hx

end Sys2Proof.Proofs
end

section
/-! PROOF. The networks of `IDCT_ISLOW` and of the sizes 2, 4, 6 and 12 multiply out to the rows of their weights (O40, O41, O42;
43_idct.md R205, R215, R218, R221, R224). -/

namespace Sys2Proof.Proofs

open Machine Claims

theorem idctIslow1d_eq_dot (n : Nat) (e : Nat → Int) {k : Nat} (hk : k < 8) :
    onIndices (idctIslow1d n) e k = descale (dot (inverseWeights k) e) n := by
  rcases lt_eight_cases hk with rfl | rfl | rfl | rfl | rfl | rfl | rfl | rfl
  all_goals
    exact congrArg (descale · n) (by simp only [tabulate8, inverseWeights, dot, shl_eq, Nat.reduceAdd, Nat.reducePow]; omega)

/-- Settles O40: each pass of the network is its sums of products. -/
theorem idctIslowOutput : Obligations.IdctIslowOutput := by
  unfold Obligations.IdctIslowOutput
  refine inverseAgrees_of_network (network := fun z => at8 (idctIslowBlock (block8 z))) (fun _ => rfl) (fun _ => rfl)
    (fun _ => rfl) fun z y x hy hx => ?_
  rw [idctIslowBlock, at8_idctPasses _ _ z hy, idctIslow1d_eq_dot _ _ hx]
  simp only [idctIslow1d_eq_dot _ _ hy]
  rfl

/-- An output of the 2 by 2 network before its descale (43_idct.md R215). -/
def idct2Sum (e : V8 Int) (k : Nat) : Int := if k = 0 then (idct2Pair e).1 else (idct2Pair e).2

theorem idct2Sum_eq_dot (e : Nat → Int) (k : Nat) : idct2Sum (tabulate8 e) k = dot (inverseWeights2 k) e := by
  unfold idct2Sum
  split
  · next h =>
    subst h
    simp only [idct2Pair, idct2Odd, tabulate8, inverseWeights2, dot, shl_eq, Nat.reduceAdd, Nat.reducePow]; omega
  · next h =>
    simp only [idct2Pair, idct2Odd, tabulate8, inverseWeights2, dot, shl_eq, Nat.reduceAdd, Nat.reducePow]; omega

theorem idct2Block_eq (z : Nat → Nat → Int) (y x : Nat) : idct2Block (block8 z) y x =
    descale (idct2Sum (tabulate8 fun v => descale (idct2Sum (tabulate8 fun u => z u v) y) 13) x) 20 := by
  by_cases hy : y = 0 <;> simp only [idct2Block, idct2Sum, hy, if_true, if_false] <;> rfl

theorem idct4Out_eq_dot (n : Nat) (e : Nat → Int) {k : Nat} (hk : k < 4) :
    idct4Out n (tabulate8 e) k = descale (dot (inverseWeights4 k) e) n := by
  obtain rfl | rfl | rfl | rfl : k = 0 ∨ k = 1 ∨ k = 2 ∨ k = 3 := by omega
  all_goals
    refine congrArg (descale · n) ?_
    simp only [idct4Odd0, idct4Odd2, tabulate8, inverseWeights4, dot, shl_eq, Nat.reduceAdd, Nat.reducePow]; omega

theorem idct4Block_eq (z : Nat → Nat → Int) (y x : Nat) : idct4Block (block8 z) y x =
    idct4Out 19 (tabulate8 fun v => idct4Out 12 (tabulate8 fun u => z u v) y) x := rfl

/-- Settles O41: each pass of both networks is its sums of products, with weight 0 for the inputs it does not read. -/
theorem idctQuadrantSizesOutput : Obligations.IdctQuadrantSizesOutput := by
  unfold Obligations.IdctQuadrantSizesOutput
  constructor
  · refine inverseAgrees_of_network (network := fun z => idct2Block (block8 z)) (fun _ => rfl) (fun _ => rfl) (fun _ => rfl)
      fun z y x _ _ => ?_
    rw [idct2Block_eq, idct2Sum_eq_dot]
    simp only [idct2Sum_eq_dot]
    rfl
  · refine inverseAgrees_of_network (network := fun z => idct4Block (block8 z)) (fun _ => rfl) (fun _ => rfl) (fun _ => rfl)
      fun z y x hy hx => ?_
    rw [idct4Block_eq, idct4Out_eq_dot _ _ hx]
    simp only [idct4Out_eq_dot _ _ hy]
    rfl

end Sys2Proof.Proofs
end

section
/-! PROOF. The networks of `IDCT_6X6` and `IDCT_12X12` multiply out to the rows of their weights, with the bias added in advance or
after an early shift (O42; 43_idct.md R221, R224). -/

namespace Sys2Proof.Proofs

open Machine Claims

theorem get6_map6 {α β : Type} (f : α → β) (v : V6 α) (i : Nat) : get6 (map6 f v) i = f (get6 v i) := by
  unfold get6; split <;> rfl

theorem lt_six_cases {k : Nat} (h : k < 6) : k = 0 ∨ k = 1 ∨ k = 2 ∨ k = 3 ∨ k = 4 ∨ k = 5 := by omega

theorem idct6Column_eq_dot (e : Nat → Int) {k : Nat} (hk : k < 6) :
    get6 (idct6Column (tabulate6 e)) k = descale (dot (inverseWeights6 k) e) 11 := by
  rcases lt_six_cases hk with rfl | rfl | rfl | rfl | rfl | rfl
  all_goals
    simp only [idct6Column, get6, tabulate6, inverseWeights6, dot, descale_eq_pow, asr_eq, shl_eq, Nat.reduceAdd, Nat.reducePow]
    omega

theorem idct6Row_eq_dot (e : Nat → Int) {k : Nat} (hk : k < 6) :
    get6 (idct6Row (tabulate6 e)) k = descale (dot (inverseWeights6 k) e) 18 := by
  rcases lt_six_cases hk with rfl | rfl | rfl | rfl | rfl | rfl
  all_goals
    simp only [idct6Row, get6, tabulate6, inverseWeights6, dot, descale_eq_pow, asr_eq, shl_eq, Nat.reduceAdd, Nat.reducePow]
    omega

theorem get6_transpose6 {α : Type} (m : V6 (V6 α)) {y : Nat} (hy : y < 6) :
    get6 (transpose6 m) y = map6 (fun column => get6 column y) m := by
  rcases lt_six_cases hy with rfl | rfl | rfl | rfl | rfl | rfl <;> rfl

theorem idct6Block_eq (z : Nat → Nat → Int) {y : Nat} (hy : y < 6) (x : Nat) : get6 (get6 (idct6Block (block8 z)) y) x =
    get6 (idct6Row (tabulate6 fun v => get6 (idct6Column (tabulate6 fun u => z u v)) y)) x := by
  rw [idct6Block, get6_map6, get6_transpose6 _ hy]
  rfl

theorem get12_map12 {α β : Type} (f : α → β) (v : V12 α) (i : Nat) : get12 (map12 f v) i = f (get12 v i) := by
  unfold get12; split <;> rfl

theorem lt_twelve_cases {k : Nat} (h : k < 12) : k = 0 ∨ k = 1 ∨ k = 2 ∨ k = 3 ∨ k = 4 ∨ k = 5 ∨ k = 6 ∨ k = 7 ∨ k = 8 ∨
    k = 9 ∨ k = 10 ∨ k = 11 := by omega

/-- The sums of the 12 by 12 network, whose first input comes scaled and biased (43_idct.md R224). -/
theorem idct12Sums_eq_dot (e : Nat → Int) (bias : Int) {k : Nat} (hk : k < 12) :
    get12 (idct12Sums (tabulate8 e) (e 0 * 8192 + bias)) k = dot (inverseWeights12 k) e + bias := by
  rcases lt_twelve_cases hk with rfl | rfl | rfl | rfl | rfl | rfl | rfl | rfl | rfl | rfl | rfl | rfl
  all_goals
    simp only [idct12Sums, get12, tabulate8, inverseWeights12, dot, shl_eq, Nat.reduceAdd, Nat.reducePow]
    omega

theorem idct12Column_eq_dot (e : Nat → Int) {k : Nat} (hk : k < 12) :
    get12 (idct12Column (tabulate8 e)) k = descale (dot (inverseWeights12 k) e) 11 := by
  rw [idct12Column, get12_map12]
  exact congrArg (asr · 11) (idct12Sums_eq_dot e 1024 hk)

theorem idct12Row_eq_dot (e : Nat → Int) {k : Nat} (hk : k < 12) :
    get12 (idct12Row (tabulate8 e)) k = descale (dot (inverseWeights12 k) e) 18 := by
  have hbias : shl ((tabulate8 e).e0 + 16) 13 = e 0 * 8192 + 131072 := Int.add_mul (e 0) 16 8192
  rw [idct12Row, get12_map12, hbias, idct12Sums_eq_dot e _ hk]
  rfl

theorem get12_transpose12 {α : Type} (m : V8 (V12 α)) {y : Nat} (hy : y < 12) :
    get12 (transpose12 m) y = map8 (fun column => get12 column y) m := by
  rcases lt_twelve_cases hy with rfl | rfl | rfl | rfl | rfl | rfl | rfl | rfl | rfl | rfl | rfl | rfl <;> rfl

theorem idct12Block_eq (z : Nat → Nat → Int) {y : Nat} (hy : y < 12) (x : Nat) :
    get12 (get12 (idct12Block (block8 z)) y) x =
      get12 (idct12Row (tabulate8 fun v => get12 (idct12Column (tabulate8 fun u => z u v)) y)) x := by
  rw [idct12Block, get12_map12, get12_transpose12 _ hy]
  rfl

/-- Settles O42: each pass of both networks is its sums of products, wherever it adds the half for its rounding. -/
theorem idctPointSizesOutput : Obligations.IdctPointSizesOutput := by
  unfold Obligations.IdctPointSizesOutput
  constructor
  · refine inverseAgrees_of_network (network := fun z y => get6 (get6 (idct6Block (block8 z)) y)) (fun _ => rfl) (fun _ => rfl)
      (fun _ => rfl) fun z y x hy hx => ?_
    rw [idct6Block_eq z hy, idct6Row_eq_dot _ hx]
    simp only [idct6Column_eq_dot _ hy]
    rfl
  · refine inverseAgrees_of_network (network := fun z y => get12 (get12 (idct12Block (block8 z)) y)) (fun _ => rfl)
      (fun _ => rfl) (fun _ => rfl) fun z y x hy hx => ?_
    rw [idct12Block_eq z hy, idct12Row_eq_dot _ hx]
    simp only [idct12Column_eq_dot _ hy]
    rfl

end Sys2Proof.Proofs
end

section
/-! PROOF. `IDCT_IFAST` completes with its network (O43; 43_idct.md R208 to R210). -/

namespace Sys2Proof.Proofs

open Machine Claims

theorem idctIfast1d_eq_fastInverse (e : Nat → Int) {k : Nat} (hk : k < 8) :
    onIndices idctIfast1d e k = fastInverse e k := by
  rcases lt_eight_cases hk with rfl | rfl | rfl | rfl | rfl | rfl | rfl | rfl <;> rfl

theorem at8_idctIfastBlock (z : Nat → Nat → Int) {y x : Nat} (hy : y < 8) (hx : x < 8) :
    at8 (idctIfastBlock (block8 z)) y x = fastInverse (fun v => fastInverse (fun u => z u v) y) x := by
  rw [idctIfastBlock, at8_idctPasses _ _ z hy, idctIfast1d_eq_fastInverse _ hx]
  simp only [idctIfast1d_eq_fastInverse _ hy]

theorem ifastFinal_eq (mode : IfastRounding) (x : Int) :
    ifastFinal mode x = if mode = .bias then (x + 16) / 32 else x / 32 := by
  cases mode <;> rfl

theorem samplesAgree_idctIfast {s : State} (h : s.accepts .idctIfast) : SamplesAgree s .idctIfast 8 8 fun y x =>
    limited s.cfg.rangeLimit (ifastFinal s.cfg.ifastRounding (at8 (idctIfastBlock (dequantInt s)) y x)) :=
  samplesAgree_idct h rfl rfl rfl

/-- Settles O43: both passes are the network, and each mode has its last shift. -/
theorem idctIfastOutput : Obligations.IdctIfastOutput := by
  unfold Obligations.IdctIfastOutput
  intro s h
  obtain ⟨m, hexec, hsample, hframe⟩ := samplesAgree_idctIfast h
  refine ⟨m, hexec, fun y x hy hx => (hsample y x hy hx).trans (congrArg (limited _) ?_), hframe⟩
  rw [dequantInt_eq, at8_idctIfastBlock _ hy hx, ifastFinal_eq]

end Sys2Proof.Proofs
end

section
/-! PROOF. `IDCT_FLOAT` completes with its network in binary32 (O44; 43_idct.md R211 to R213). -/

namespace Sys2Proof.Proofs

open Machine Machine.Memory Claims

/-- A value of the dequantized block of `IDCT_FLOAT` (43_idct.md R201). -/
def dequantizedFloat (s : State) (u v : Nat) : F32 :=
  fmul (floatOfInt (i16 s.mem (s.src0.toNat + 2 * (8 * u + v)))) (f32 s.mem (s.tbl.toNat + 4 * (8 * u + v)))

theorem dequantFloat_eq (s : State) : dequantFloat s = block8 (dequantizedFloat s) := rfl

/-- The inputs of pass 2 on row `y`: the outputs of pass 1, with 128.5 added to the first (43_idct.md R212). -/
def floatRowInput (z : Nat → Nat → F32) (y v : Nat) : F32 :=
  if v = 0 then fadd (floatInverse (fun u => z u 0) y) 0x43008000#32 else floatInverse (fun u => z u v) y

theorem idctFloat1d_eq_floatInverse (e : Nat → F32) {k : Nat} (hk : k < 8) :
    onIndices idctFloat1d e k = floatInverse e k := by
  rcases lt_eight_cases hk with rfl | rfl | rfl | rfl | rfl | rfl | rfl | rfl <;> rfl

theorem idctFloatRow_eq_floatInverse (e : Nat → F32) {k : Nat} (hk : k < 8) : onIndices idctFloatRow e k =
    floatInverse (fun v => if v = 0 then fadd (e 0) 0x43008000#32 else e v) k :=
  idctFloat1d_eq_floatInverse (fun v => if v = 0 then fadd (e 0) 0x43008000#32 else e v) hk

theorem at8_idctFloatBlock (z : Nat → Nat → F32) {y x : Nat} (hy : y < 8) (hx : x < 8) :
    at8 (idctFloatBlock (block8 z)) y x = floatInverse (floatRowInput z y) x := by
  rw [idctFloatBlock, at8_idctPasses _ _ z hy, idctFloatRow_eq_floatInverse _ hx]
  simp only [idctFloat1d_eq_floatInverse _ hy]
  rfl

theorem samplesAgree_idctFloat {s : State} (h : s.accepts .idctFloat) : SamplesAgree s .idctFloat 8 8 fun y x =>
    floatLimited s.cfg.rangeLimit (cvt (at8 (idctFloatBlock (dequantFloat s)) y x)) :=
  samplesAgree_of_accepts h rfl rfl (by simp only [← fout_eq_floatLimited]; rfl) fun _ _ _ _ => floatLimited_range _ _

/-- Settles O44: 16-bit integers are exact in binary32, both passes are the network, and the model's conversion is R187's. -/
theorem idctFloatOutput : Obligations.IdctFloatOutput := by
  unfold Obligations.IdctFloatOutput
  refine ⟨integersAreExact, fun s h => ?_⟩
  obtain ⟨m, hexec, hsample, hframe⟩ := samplesAgree_idctFloat h
  refine ⟨m, hexec, fun y x hy hx => ⟨_, converts_cvt _, (hsample y x hy hx).trans ?_⟩, hframe⟩
  exact congrArg (fun r => floatLimited _ (cvt r)) (at8_idctFloatBlock (dequantizedFloat s) hy hx)

end Sys2Proof.Proofs
end

section
/-! PROOF. The DC-only law of the six integer inverse DCTs, from what each computes (O45; 43_idct.md R207, R227). -/

namespace Sys2Proof.Proofs

open Machine Machine.Memory Claims

/-- Only element 0 of row 0 of the block may differ from 0. -/
def DcOnly (z : Nat → Nat → Int) : Prop := ∀ u v, u < 8 → v < 8 → ¬ (u = 0 ∧ v = 0) → z u v = 0

/-- A coefficient 0 makes a dequantized value 0, whatever its multiplier. -/
theorem dequantized_dcOnly {s : State} (h : ∀ k, 1 ≤ k → k < 64 → i16 s.mem (s.src0.toNat + 2 * k) = 0) :
    DcOnly (dequantized s) := fun u v hu hv hne => by
  rw [dequantized, h (8 * u + v) (by omega) (by omega), Int.zero_mul]

theorem dot_eq_zero {w : List Int} {e : Nat → Int} (h : ∀ i, i < w.length → e i = 0) : dot w e = 0 :=
  Int.natAbs_eq_zero.mp (Nat.le_zero.mp (natAbs_dot_le (b := 0) fun i hi => Nat.le_of_eq (Int.natAbs_eq_zero.mpr (h i hi))))

/-- Where only the first value may differ from 0, its weight alone counts. -/
theorem dot_eq_head_mul {w : List Int} {e : Nat → Int} (hlen : w.length ≤ 8) (h : ∀ i, 0 < i → i < 8 → e i = 0) :
    dot w e = w.headD 0 * e 0 := by
  cases w with
  | nil => exact (Int.zero_mul _).symm
  | cons c w =>
    rw [List.length_cons] at hlen
    rw [dot, dot_eq_zero fun i hi => h (i + 1) (Nat.succ_pos i) (by omega), Int.add_zero, List.headD_cons]

/-- A multiple of `2^(p+2)`, rounded half up by `2^p`, is divided exactly. -/
theorem round_pow_mul {p : Nat} (hp : 0 < p) (n : Int) : ((2 : Int) ^ (p + 2) * n + 2 ^ (p - 1)) / 2 ^ p = 4 * n := by
  have hhalf : (2 : Int) ^ (p - 1) < 2 ^ p := Int.pow_lt_pow_of_lt (by decide) (by omega)
  have hweight : (2 : Int) ^ (p + 2) = 2 ^ p * 4 := Int.pow_add 2 p 2
  rw [hweight, Int.mul_assoc, Int.add_comm, Int.add_mul_ediv_left _ _ (Int.ne_of_gt (Int.pow_pos (by decide))),
    Int.ediv_eq_zero_of_lt (Int.pow_nonneg (by decide)) hhalf, Int.zero_add]

/-- `2^(p+4)` times a value, rounded half up by `2^(p+7)`, is the value rounded half up by 8. -/
theorem round_pow_mul_eighth (p : Nat) (n : Int) :
    ((2 : Int) ^ (p + 2) * (4 * n) + 2 ^ (p + 7 - 1)) / 2 ^ (p + 7) = (n + 4) / 8 := by
  have hweight : (2 : Int) ^ (p + 4) = 2 ^ (p + 2) * 4 := Int.pow_add 2 (p + 2) 2
  have hhalf : (2 : Int) ^ (p + 7 - 1) = 2 ^ (p + 4) * 4 := Int.pow_add 2 (p + 4) 2
  have hunit : (2 : Int) ^ (p + 7) = 2 ^ (p + 4) * 8 := Int.pow_add 2 (p + 4) 3
  rw [← Int.mul_assoc, ← hweight, hhalf, ← Int.mul_add, hunit, Int.mul_ediv_mul_of_pos _ _ (Int.pow_pos (by decide))]

/-- A transform of rounded sums of products whose first weights are `2^(p+2)` and whose passes round by `2^p` and `2^(p+7)` gives
every sample the DC value rounded half up by 8 (43_idct.md R227). -/
theorem dcOnly_of_inverseAgrees {i : Instr} {n p : Nat} {weights : Nat → List Int} (hagrees : InverseAgrees i n weights p (p + 7))
    (hp : 0 < p) (hweights : ∀ k, k < n → (weights k).headD 0 = 2 ^ (p + 2) ∧ (weights k).length ≤ 8)
    {s : State} (h : s.accepts i) (hdc : DcOnly (dequantized s)) :
    ∃ m, exec i s = .next (s.succeeded m) ∧ ∀ y x, y < n → x < n →
      target s m y x = limited s.cfg.rangeLimit ((dequantized s 0 0 + 4) / 8) := by
  obtain ⟨ws, m, hexec, hws, hsample, -⟩ := hagrees s h
  refine ⟨m, hexec, fun y x hy hx => ?_⟩
  have hcolumn : ∀ v, v < 8 → ws y v = 4 * dequantized s 0 v := fun v hv => by
    obtain ⟨hhead, hlen⟩ := hweights y hy
    rw [hws y v hy hv, dot_eq_head_mul hlen fun u h0 hu => hdc u v hu hv (by omega), hhead, round_pow_mul hp]
  have hrow : ∀ v, 0 < v → v < 8 → ws y v = 0 := fun v h0 hv => by
    rw [hcolumn v hv, hdc 0 v (by decide) hv (by omega), Int.mul_zero]
  obtain ⟨hhead, hlen⟩ := hweights x hx
  rw [target, hsample y x hy hx, dot_eq_head_mul hlen hrow, hhead, hcolumn 0 (by decide), round_pow_mul_eighth]

theorem fastInverse_dcOnly {e : Nat → Int} (h : ∀ i, 0 < i → i < 8 → e i = 0) {k : Nat} (hk : k < 8) :
    fastInverse e k = e 0 := by
  have h1 := h 1 (by decide) (by decide)
  have h2 := h 2 (by decide) (by decide)
  have h3 := h 3 (by decide) (by decide)
  have h4 := h 4 (by decide) (by decide)
  have h5 := h 5 (by decide) (by decide)
  have h6 := h 6 (by decide) (by decide)
  have h7 := h 7 (by decide) (by decide)
  rcases lt_eight_cases hk with rfl | rfl | rfl | rfl | rfl | rfl | rfl | rfl <;>
    simp only [fastInverse, scaled8, h1, h2, h3, h4, h5, h6, h7] <;> omega

/-- The fast network passes a lone DC value on in both passes. -/
theorem dcOnly_idctIfast {s : State} (h : s.accepts .idctIfast) (hdc : DcOnly (dequantized s)) :
    ∃ m, exec .idctIfast s = .next (s.succeeded m) ∧ ∀ y x, y < 8 → x < 8 →
      target s m y x = limited s.cfg.rangeLimit
        (if s.cfg.ifastRounding = .bias then (dequantized s 0 0 + 16) / 32 else dequantized s 0 0 / 32) := by
  obtain ⟨m, hexec, hsample, -⟩ := idctIfastOutput s h
  refine ⟨m, hexec, fun y x hy hx => (hsample y x hy hx).trans ?_⟩
  have hcolumn : ∀ v, v < 8 → fastInverse (fun u => dequantized s u v) y = dequantized s 0 v := fun v hv =>
    fastInverse_dcOnly (fun u h0 hu => hdc u v hu hv (by omega)) hy
  have hrow : fastInverse (fun v => fastInverse (fun u => dequantized s u v) y) x = dequantized s 0 0 :=
    (fastInverse_dcOnly (fun v h0 hv => (hcolumn v hv).trans (hdc 0 v (by decide) hv (by omega))) hx).trans
      (hcolumn 0 (by decide))
  simp only [hrow]

/-- Settles O45: five transforms scale the DC value by powers of 2 in their first weights, and the fast network passes it on. -/
theorem dcOnlyIntegerLaw : Obligations.DcOnlyIntegerLaw := by
  unfold Obligations.DcOnlyIntegerLaw
  intro s i n hac hmem h
  have hdc := dequantized_dcOnly hac
  simp only [List.mem_cons, Prod.mk.injEq, List.not_mem_nil, or_false] at hmem
  rcases hmem with ⟨rfl, rfl⟩ | ⟨rfl, rfl⟩ | ⟨rfl, rfl⟩ | ⟨rfl, rfl⟩ | ⟨rfl, rfl⟩ | ⟨rfl, rfl⟩ <;>
    simp only [reduceCtorEq, if_true, if_false]
  · exact dcOnly_of_inverseAgrees idctIslowOutput (by decide) (by decide) h hdc
  · exact dcOnly_of_inverseAgrees idctQuadrantSizesOutput.1 (by decide) (by decide) h hdc
  · exact dcOnly_of_inverseAgrees idctQuadrantSizesOutput.2 (by decide) (by decide) h hdc
  · exact dcOnly_of_inverseAgrees idctPointSizesOutput.1 (by decide) (by decide) h hdc
  · exact dcOnly_of_inverseAgrees idctPointSizesOutput.2 (by decide) (by decide) h hdc
  · exact dcOnly_idctIfast h hdc

end Sys2Proof.Proofs
end

section
/-! PROOF. Adding a zero in binary32 changes nothing but the sign of a zero and the payload of a NaN (00_scope.md R12). -/

namespace Sys2Proof.Proofs

open Machine Claims

/-- Equal up to the sign of a zero and the payload of a NaN. -/
def SameValue (a b : F32) : Prop := a = b ∨ (StandsFor a 0 ∧ StandsFor b 0) ∨ (isNan a ∧ isNan b)

theorem not_isNan_of_standsFor {a : F32} {n : Int} (h : StandsFor a n) : ¬ isNan a := fun hnan => h.1 hnan.1

theorem SameValue.trans {a b c : F32} (hab : SameValue a b) (hbc : SameValue b c) : SameValue a c := by
  rcases hab with rfl | ⟨ha, hb⟩ | ⟨ha, hb⟩
  · exact hbc
  · rcases hbc with rfl | ⟨-, hc⟩ | ⟨hb', -⟩
    · exact .inr (.inl ⟨ha, hb⟩)
    · exact .inr (.inl ⟨ha, hc⟩)
    · exact absurd hb' (not_isNan_of_standsFor hb)
  · rcases hbc with rfl | ⟨hb', -⟩ | ⟨-, hc⟩
    · exact .inr (.inr ⟨ha, hb⟩)
    · exact absurd hb (not_isNan_of_standsFor hb')
    · exact .inr (.inr ⟨ha, hc⟩)

theorem SameValue.symm {a b : F32} (h : SameValue a b) : SameValue b a :=
  h.imp Eq.symm (Or.imp And.symm And.symm)

theorem SameValue.standsFor_zero {a b : F32} (h : SameValue a b) (hb : StandsFor b 0) : StandsFor a 0 := by
  rcases h with rfl | ⟨ha, -⟩ | ⟨-, hnan⟩
  · exact hb
  · exact ha
  · exact absurd hnan (not_isNan_of_standsFor hb)

theorem standsFor_zero_of_units {a : F32} (hfin : isFinite a) (hunits : units a = 0) : StandsFor a 0 :=
  ⟨hfin, by rw [hunits, Int.zero_mul]⟩

theorem StandsFor.units_eq_zero {a : F32} (h : StandsFor a 0) : units a = 0 := by rw [h.2, Int.zero_mul]

/-- Both a zero and a NaN convert to 0 (42_quant.md R187). -/
theorem SameValue.cvt_eq {a b : F32} (h : SameValue a b) : cvt a = cvt b := by
  have hzero : ∀ x, StandsFor x 0 → cvt x = 0 := fun x hx => by
    rw [(converts_cvt x).1 hx.1, hx.units_eq_zero, Int.zero_tdiv]
  have hnan : ∀ x, isNan x → cvt x = 0 := fun x hx => (converts_cvt x).2.2.2 hx
  rcases h with rfl | ⟨ha, hb⟩ | ⟨ha, hb⟩
  · rfl
  · rw [hzero a ha, hzero b hb]
  · rw [hnan a ha, hnan b hb]

/-! ## Zeros -/

theorem StandsFor.zero_add {a b : F32} (ha : StandsFor a 0) (hb : StandsFor b 0) : StandsFor (fadd a b) 0 :=
  ha.add hb (by decide) (by decide)

theorem StandsFor.zero_neg {a : F32} (h : StandsFor a 0) : StandsFor (fneg a) 0 :=
  standsFor_zero_of_units ((isFinite_fneg a).mpr h.1) (by rw [units_fneg, h.units_eq_zero]; rfl)

theorem StandsFor.zero_sub {a b : F32} (ha : StandsFor a 0) (hb : StandsFor b 0) : StandsFor (fsub a b) 0 :=
  ha.zero_add hb.zero_neg

theorem StandsFor.zero_mul {a b : F32} (ha : StandsFor a 0) (hb : isFinite b) : StandsFor (fmul a b) 0 := by
  rw [fmul_zero_product ha.1 hb (by rw [ha.units_eq_zero, Int.zero_mul]), signedAs_zero]
  exact standsFor_zero _

/-! ## A zero added -/

theorem magnitudeUnits_injective {b c : Nat} (h : magnitudeUnits b = magnitudeUnits c) : b = c := by
  rcases Nat.lt_trichotomy b c with hlt | heq | hgt
  · exact absurd h (Nat.ne_of_lt (magnitudeUnits_lt hlt))
  · exact heq
  · exact absurd h (Nat.ne_of_gt (magnitudeUnits_lt hgt))

/-- The encoding of a value other than 0 is determined by the value. -/
theorem eq_of_units_eq {x y : F32} (h : units x = units y) (h0 : units x ≠ 0) : x = y := by
  rw [units_eq_signed] at h h0
  rw [units_eq_signed] at h
  have hfields : isNegative x = isNegative y ∧
      magnitudeUnits (x.toNat % 2 ^ 31) = magnitudeUnits (y.toNat % 2 ^ 31) := by
    cases hx : isNegative x <;> cases hy : isNegative y <;> simp only [hx, hy, signed_true, signed_false] at h h0
    · exact ⟨rfl, by omega⟩
    · omega
    · omega
    · exact ⟨rfl, by omega⟩
  obtain ⟨hsign, hmagnitude⟩ := hfields
  have hlow := magnitudeUnits_injective hmagnitude
  have hhigh : 2 ^ 31 ≤ x.toNat ↔ 2 ^ 31 ≤ y.toNat := by rw [← isNegative_iff, hsign, isNegative_iff]
  have hx := x.isLt
  have hy := y.isLt
  exact BitVec.eq_of_toNat_eq (by omega)

theorem natAbs_units_lt {x : F32} (h : isFinite x) : (units x).natAbs < (2 ^ 25 - 1) * 2 ^ 252 := by
  rw [isFinite_iff] at h
  rw [units_eq_signed, natAbs_signed]
  calc magnitudeUnits (x.toNat % 2 ^ 31) ≤ magnitudeUnits (254 * 2 ^ 23 + (2 ^ 23 - 1)) := magnitudeUnits_le (by omega)
    _ < (2 ^ 25 - 1) * 2 ^ 252 := by decide

theorem isInfinite_or_isNan {x : F32} (h : ¬ isFinite x) : isInfinite x ∨ isNan x := by
  have hexp : exponentField x = 255 := Decidable.not_not.mp h
  by_cases hnan : x.toNat % 2 ^ 23 = 0
  · have hlt := x.isLt
    have hbits : x.toNat = 0x7F800000 ∨ x.toNat = 0xFF800000 := by unfold exponentField at hexp; omega
    exact .inl (hbits.imp BitVec.eq_of_toNat_eq BitVec.eq_of_toNat_eq)
  · exact .inr ⟨hexp, hnan⟩

/-- Adding a zero keeps every value. -/
theorem fadd_zero_sameValue (a : F32) {b : F32} (hb : StandsFor b 0) : SameValue (fadd a b) a := by
  by_cases hfin : isFinite a
  · by_cases h0 : units a = 0
    · have ha := standsFor_zero_of_units hfin h0
      exact .inr (.inl ⟨ha.zero_add hb, ha⟩)
    · have hsum : units a + units b = units a := by rw [hb.units_eq_zero, Int.add_zero]
      have hround := fadd_roundsTo hfin hb.1 (by omega)
      rw [hsum] at hround
      obtain ⟨-, hunits⟩ := units_eq_of_roundsTo hround hfin rfl (natAbs_units_lt hfin)
      exact .inl (eq_of_units_eq hunits (by omega))
  · rcases isInfinite_or_isNan hfin with hinf | hnan
    · exact .inl (fadd_infinite_finite hinf hb.1)
    · exact .inr (.inr ⟨fadd_of_isNan (.inl hnan) ▸ isNan_floatNan, hnan⟩)

theorem SameValue.add_zero {a b c : F32} (h : SameValue a b) (hc : StandsFor c 0) : SameValue (fadd a c) b :=
  (fadd_zero_sameValue a hc).trans h

theorem SameValue.sub_zero {a b c : F32} (h : SameValue a b) (hc : StandsFor c 0) : SameValue (fsub a c) b :=
  h.add_zero hc.zero_neg

theorem fadd_comm (a b : F32) : fadd a b = fadd b a := by
  unfold fadd
  rcases floatVal a with _ | s | ⟨s, m, e⟩ <;> rcases floatVal b with _ | t | ⟨t, n, f⟩
  case inf.inf => cases s <;> cases t <;> rfl
  case fin.fin => simp only [Int.min_comm f e, Int.add_comm, Bool.and_comm]
  all_goals rfl

/-- Values that are the same have the same sum with a third one. -/
theorem SameValue.add_right {a b : F32} (h : SameValue a b) (c : F32) : SameValue (fadd a c) (fadd b c) := by
  have hzero : ∀ x, StandsFor x 0 → SameValue (fadd x c) c := fun x hx => fadd_comm c x ▸ fadd_zero_sameValue c hx
  rcases h with rfl | ⟨ha, hb⟩ | ⟨ha, hb⟩
  · exact .inl rfl
  · exact (hzero a ha).trans (hzero b hb).symm
  · rw [fadd_of_isNan (.inl ha), fadd_of_isNan (.inl hb)]
    exact .inl rfl

end Sys2Proof.Proofs
end

section
/-! PROOF. The DC-only law of `IDCT_FLOAT` (O46; 43_idct.md R207, R227). -/

namespace Sys2Proof.Proofs

open Machine Machine.Memory Claims

/-- Where the other seven inputs are zeros, every output of the network is the first input, whatever it is. -/
theorem floatInverse_dcOnly {e : Nat → F32} (h : ∀ i, 0 < i → i < 8 → StandsFor (e i) 0) {k : Nat} (hk : k < 8) :
    SameValue (floatInverse e k) (e 0) := by
  have h1 := h 1 (by decide) (by decide)
  have h2 := h 2 (by decide) (by decide)
  have h3 := h 3 (by decide) (by decide)
  have h4 := h 4 (by decide) (by decide)
  have h5 := h 5 (by decide) (by decide)
  have h6 := h 6 (by decide) (by decide)
  have h7 := h 7 (by decide) (by decide)
  have hk1414 : isFinite k1414 := by unfold isFinite; decide
  have hk1848 : isFinite k1848 := by unfold isFinite; decide
  have hk1082 : isFinite k1082 := by unfold isFinite; decide
  have hk2613 : isFinite k2613 := by unfold isFinite; decide
  have ht10 : SameValue (fadd (e 0) (e 4)) (e 0) := fadd_zero_sameValue _ h4
  have ht11 : SameValue (fsub (e 0) (e 4)) (e 0) := fadd_zero_sameValue _ h4.zero_neg
  have ht13 := h2.zero_add h6
  have ht12 := ((h2.zero_sub h6).zero_mul hk1414).zero_sub ht13
  have hz13 := h5.zero_add h3
  have hz10 := h5.zero_sub h3
  have hz11 := h1.zero_add h7
  have hz12 := h1.zero_sub h7
  have ht7 := hz11.zero_add hz13
  have hz5 := (hz10.zero_add hz12).zero_mul hk1848
  have ht6 := (hz5.zero_sub (hz10.zero_mul hk2613)).zero_sub ht7
  have ht5 := ((hz11.zero_sub hz13).zero_mul hk1414).zero_sub ht6
  have ht4 := (hz5.zero_sub (hz12.zero_mul hk1082)).zero_sub ht5
  rcases lt_eight_cases hk with rfl | rfl | rfl | rfl | rfl | rfl | rfl | rfl
  · exact (ht10.add_zero ht13).add_zero ht7
  · exact (ht11.add_zero ht12).add_zero ht6
  · exact (ht11.sub_zero ht12).add_zero ht5
  · exact (ht10.sub_zero ht13).add_zero ht4
  · exact (ht10.sub_zero ht13).sub_zero ht4
  · exact (ht11.sub_zero ht12).sub_zero ht5
  · exact (ht11.add_zero ht12).sub_zero ht6
  · exact (ht10.add_zero ht13).sub_zero ht7

/-- A coefficient 0 with a finite multiplier enters the network as a zero. -/
theorem dequantizedFloat_ac {s : State}
    (h : ∀ k, 1 ≤ k → k < 64 → i16 s.mem (s.src0.toNat + 2 * k) = 0 ∧ isFinite (f32 s.mem (s.tbl.toNat + 4 * k)))
    {u v : Nat} (hu : u < 8) (hv : v < 8) (hne : ¬ (u = 0 ∧ v = 0)) : StandsFor (dequantizedFloat s u v) 0 := by
  obtain ⟨hcoefficient, hmultiplier⟩ := h (8 * u + v) (by omega) (by omega)
  rw [dequantizedFloat, hcoefficient]
  exact (standsFor_floatOfInt (n := 0) (by decide) (by decide)).zero_mul hmultiplier

/-- The two passes of the float network pass a lone DC value on, with 128.5 added between them. -/
theorem idctFloatBlock_dcOnly {z : Nat → Nat → F32}
    (h : ∀ u v, u < 8 → v < 8 → ¬ (u = 0 ∧ v = 0) → StandsFor (z u v) 0) {y x : Nat} (hy : y < 8) (hx : x < 8) :
    SameValue (at8 (idctFloatBlock (block8 z)) y x) (fadd (z 0 0) 0x43008000#32) := by
  have hcolumn : ∀ v, v < 8 → SameValue (floatInverse (fun u => z u v) y) (z 0 v) := fun v hv =>
    floatInverse_dcOnly (fun u h0 hu => h u v hu hv (by omega)) hy
  have hrow : ∀ v, 0 < v → v < 8 → StandsFor (floatRowInput z y v) 0 := fun v h0 hv => by
    rw [floatRowInput, if_neg (Nat.ne_of_gt h0)]
    exact (hcolumn v hv).standsFor_zero (h 0 v (by decide) hv (by omega))
  rw [at8_idctFloatBlock z hy hx]
  exact (floatInverse_dcOnly hrow hx).trans ((hcolumn 0 (by decide)).add_right _)

/-- Settles O46: every sample is converted from the same value, up to what the conversion does not see. -/
theorem dcOnlyFloatLaw : Obligations.DcOnlyFloatLaw := by
  unfold Obligations.DcOnlyFloatLaw
  refine ⟨integersAreExact, fun s h hac => ?_⟩
  obtain ⟨m, hexec, hsample, -⟩ := samplesAgree_idctFloat h
  refine ⟨m, cvt (fadd (dequantizedFloat s 0 0) 0x43008000#32), hexec, converts_cvt _, fun y x hy hx => ?_⟩
  have hvalue := idctFloatBlock_dcOnly (fun u v hu hv => dequantizedFloat_ac hac hu hv) hy hx
  rw [← hvalue.cvt_eq]
  exact hsample y x hy hx

end Sys2Proof.Proofs
end

section
/-! PROOF. The forward pixel function stays in the samples, and the inverse one undoes it within 1 in every channel (O48, O49;
44_color.md R251, R254, R257, R262). -/

namespace Sys2Proof.Proofs

open Machine Machine.Memory Claims

/-- Each of the three values is a sample, in `0 .. 255` (00_scope.md R13). -/
def AreSamples (p : Triple) : Prop := 0 ≤ p.a ∧ p.a ≤ 255 ∧ 0 ≤ p.b ∧ p.b ≤ 255 ∧ 0 ≤ p.c ∧ p.c ≤ 255

theorem toYcc_eq (r g b : Int) : toYcc ⟨r, g, b⟩ = ⟨lumaSample r g b, cbSample r g b, crSample r g b⟩ := rfl

/-- Each forward sample of R251 is an integer nearest to its weighted sum: twice the distance, in units of `2^-16`, is at most
`2^16`. -/
theorem forward_bounds (r g b : Int) :
    (19595 * r + 38470 * g + 7471 * b - 32768 < 65536 * lumaSample r g b ∧
      65536 * lumaSample r g b ≤ 19595 * r + 38470 * g + 7471 * b + 32768) ∧
    (-11059 * r - 21709 * g + 32768 * b - 32769 < 65536 * (cbSample r g b - 128) ∧
      65536 * (cbSample r g b - 128) ≤ -11059 * r - 21709 * g + 32768 * b + 32767) ∧
    (32768 * r - 27439 * g - 5329 * b - 32769 < 65536 * (crSample r g b - 128) ∧
      65536 * (crSample r g b - 128) ≤ 32768 * r - 27439 * g - 5329 * b + 32767) := by
  unfold lumaSample cbSample crSample
  refine ⟨?_, ?_, ?_⟩ <;> omega

/-- The forward range law (44_color.md R254). -/
theorem areSamples_toYcc {p : Triple} (h : AreSamples p) : AreSamples (toYcc p) := by
  obtain ⟨r, g, b⟩ := p
  obtain ⟨hy, hcb, hcr⟩ := forward_bounds r g b
  simp only [AreSamples, toYcc_eq] at h ⊢
  omega

/-- Settles O48, by the bounds on the three roundings. -/
theorem forwardColourRange : Obligations.ForwardColourRange := by
  unfold Obligations.ForwardColourRange
  exact fun r g b hr0 hr hg0 hg hb0 hb => areSamples_toYcc (p := ⟨r, g, b⟩) ⟨hr0, hr, hg0, hg, hb0, hb⟩

theorem clamp_eq_toSample (x : Int) : clamp x 0 255 = toSample x := by
  simp only [clamp, toSample]
  omega

theorem toSample_range (x : Int) : 0 ≤ toSample x ∧ toSample x ≤ 255 := by
  simp only [toSample]
  omega

theorem toRgb_eq (y cb cr : Int) : toRgb ⟨y, cb, cr⟩ = ⟨redSample y cr, greenSample y cb cr, blueSample y cb⟩ := by
  simp only [toRgb, clamp_eq_toSample]
  rfl

/-- Clamping does not take a value away from a sample that is next to it. -/
theorem toSample_near {x v : Int} (h0 : 0 ≤ v) (h1 : v ≤ 255) (hlo : v - 1 ≤ x) (hhi : x ≤ v + 1) :
    (toSample x - v).natAbs ≤ 1 := by
  simp only [toSample]
  omega

/-- The round trip of a pixel: the roundings of `Y`, of the chroma samples and of the inverse sum add up to less than 2. -/
theorem roundTrip_near {r g b : Int} (h : AreSamples ⟨r, g, b⟩) :
    ((toRgb (toYcc ⟨r, g, b⟩)).a - r).natAbs ≤ 1 ∧ ((toRgb (toYcc ⟨r, g, b⟩)).b - g).natAbs ≤ 1 ∧
      ((toRgb (toYcc ⟨r, g, b⟩)).c - b).natAbs ≤ 1 := by
  simp only [AreSamples] at h
  obtain ⟨hr0, hr, hg0, hg, hb0, hb⟩ := h
  obtain ⟨hy, hcb, hcr⟩ := forward_bounds r g b
  rw [toYcc_eq, toRgb_eq]
  refine ⟨toSample_near hr0 hr ?_ ?_, toSample_near hg0 hg ?_ ?_, toSample_near hb0 hb ?_ ?_⟩ <;> omega

/-- Settles O49: the law for every pixel by the bounds on the roundings, and the table of R262 by evaluation. -/
theorem colourRoundTrip : Obligations.ColourRoundTrip := by
  unfold Obligations.ColourRoundTrip
  refine ⟨fun r g b hr0 hr hg0 hg hb0 hb => roundTrip_near ⟨hr0, hr, hg0, hg, hb0, hb⟩, by decide, by decide⟩

end Sys2Proof.Proofs
end

section
/-! PROOF. `RGB_YCC` and `RGB_GRAY` complete with the forward samples of every pixel (O47; 44_color.md R251 to R255). -/

namespace Sys2Proof.Proofs

open Machine Machine.Memory Claims

/-- The samples of a pixel stand at the offsets of its layout's row (30_encoding.md R116). -/
theorem readPixel_eq (m : Memory) (l : Layout) (a : Nat) : readPixel m l a =
    ⟨s8 m (a + (layoutRow l).2.1), s8 m (a + (layoutRow l).2.2.1), s8 m (a + (layoutRow l).2.2.2.1)⟩ := by cases l <;> rfl

theorem inputPixel_eq (s : State) (l : Layout) (r j : Nat) : inputPixel s l r j =
    let a := s.src0.toNat + r * (s.sstride.toNat % 65536) + j * layoutSize l
    ⟨s8 s.mem (a + (layoutRow l).2.1), s8 s.mem (a + (layoutRow l).2.2.1), s8 s.mem (a + (layoutRow l).2.2.2.1)⟩ := by
  rw [inputPixel, readPixel_eq, pixelBytes_eq]
  rfl

/-- A sample stored in a byte is the sample read. -/
theorem s8_of_read {m : Memory} {a : Nat} {v : Int} (h : read m a = toByte v) (h0 : 0 ≤ v) (h1 : v ≤ 255) : s8 m a = v :=
  (congrArg byteVal h).trans (byteVal_toByte h0 h1)

theorem areSamples_inputPixel (s : State) (l : Layout) (r j : Nat) : AreSamples (inputPixel s l r j) := by
  have hbyte (a : Nat) : 0 ≤ s8 s.mem a ∧ s8 s.mem a ≤ 255 := byteVal_range _
  exact ⟨(hbyte _).1, (hbyte _).2, (hbyte _).1, (hbyte _).2, (hbyte _).1, (hbyte _).2⟩

/-- Regions whose spans do not meet have no byte in common (20_memory.md R86). -/
theorem not_both_hold {r t : Region} (h : r.meets t = false) {a : Nat} : ¬ (r.Holds a ∧ t.Holds a) := by
  rintro ⟨hr, ht⟩
  obtain ⟨hr1, hr2⟩ := of_decide_eq_true hr.spans
  obtain ⟨ht1, ht2⟩ := of_decide_eq_true ht.spans
  exact Bool.eq_false_iff.mp h (meets_iff.mpr ⟨a, hr1, hr2, ht1, ht2⟩)

/-- A loop that writes one byte of a plane at every turn and nothing else in that plane: the byte is read back. -/
theorem read_gridCells_plane {n w stride : Nat} {base : Word} {f : Nat → Nat → List Host.Cell} (value : Nat → Nat → Byte)
    (m : Memory) (hrows : n ≤ 1 ∨ w ≤ stride) (hmem : ∀ r j, (base.toNat + r * stride + j, value r j) ∈ f r j)
    (honly : ∀ r j c, r < n → j < w → c ∈ f r j →
      c = (base.toNat + r * stride + j, value r j) ∨ ¬ (rowRegion base n stride w).Holds c.1)
    {r j : Nat} (hr : r < n) (hj : j < w) :
    read (writeCells m (gridCells n w f)) (base.toNat + r * stride + j) = value r j := by
  refine read_gridCells (c := (base.toNat + r * stride + j, value r j)) m hr hj (hmem r j) fun r' j' c' hr' hj' hc' he => ?_
  obtain rfl := (honly r' j' c' hr' hj' hc').resolve_right (not_not_intro (rowRegion_holds r j hr hj he))
  obtain ⟨rfl, rfl⟩ := row_column_unique hrows hr' hr hj' hj (by simp only at he; omega)
  rfl

/-- The bytes of the three planes after `RGB_YCC` (44_color.md R253): the planes do not overlap (20_memory.md R86). -/
theorem read_after_rgbYcc {s : State} {l : Layout} (h : s.accepts (.rgbYcc l)) {r j : Nat} (hr : r < s.rowCount)
    (hj : j < s.w0) :
    let m := writeCells s.mem (rgbYccCells l s)
    let p := toYcc (inputPixel s l r j)
    read m (s.dst0.toNat + r * s.ds0 + j) = toByte p.a ∧ read m (s.dst1.toNat + r * s.ds1 + j) = toByte p.b ∧
      read m (s.dst2.toNat + r * s.ds1 + j) = toByte p.c := by
  obtain ⟨-, -, -, -, -, -, hapart⟩ := check_none_iff_regions.mp h
  simp only [plan, planRgbYcc, List.pairwise_cons, List.mem_cons, List.not_mem_nil, or_false, forall_eq_or_imp,
    forall_eq] at hapart
  obtain ⟨⟨h01, h02⟩, h12, -⟩ := hapart
  refine ⟨?_, ?_, ?_⟩
  · refine read_gridCells_plane (fun r j => toByte (toYcc (inputPixel s l r j)).a) s.mem
      (rows_apart_of_accepts h (.head _)) (fun _ _ => .head _) (fun r j c hr hj hc => ?_) hr hj
    rcases hc with _ | ⟨_, _ | ⟨_, _ | ⟨_, ⟨⟩⟩⟩⟩
    · exact .inl rfl
    · exact .inr fun h0 => not_both_hold h01 ⟨h0, rowRegion_holds r j hr hj rfl⟩
    · exact .inr fun h0 => not_both_hold h02 ⟨h0, rowRegion_holds r j hr hj rfl⟩
  · refine read_gridCells_plane (fun r j => toByte (toYcc (inputPixel s l r j)).b) s.mem
      (rows_apart_of_accepts h (.tail _ (.head _))) (fun _ _ => .tail _ (.head _)) (fun r j c hr hj hc => ?_) hr hj
    rcases hc with _ | ⟨_, _ | ⟨_, _ | ⟨_, ⟨⟩⟩⟩⟩
    · exact .inr fun h1 => not_both_hold h01 ⟨rowRegion_holds r j hr hj rfl, h1⟩
    · exact .inl rfl
    · exact .inr fun h1 => not_both_hold h12 ⟨h1, rowRegion_holds r j hr hj rfl⟩
  · refine read_gridCells_plane (fun r j => toByte (toYcc (inputPixel s l r j)).c) s.mem
      (rows_apart_of_accepts h (.tail _ (.tail _ (.head _)))) (fun _ _ => .tail _ (.tail _ (.head _)))
      (fun r j c hr hj hc => ?_) hr hj
    rcases hc with _ | ⟨_, _ | ⟨_, _ | ⟨_, ⟨⟩⟩⟩⟩
    · exact .inr fun h2 => not_both_hold h02 ⟨rowRegion_holds r j hr hj rfl, h2⟩
    · exact .inr fun h2 => not_both_hold h12 ⟨rowRegion_holds r j hr hj rfl, h2⟩
    · exact .inl rfl

/-- A byte of none of the three planes is left alone by `RGB_YCC`. -/
theorem read_after_rgbYcc_other {s : State} {l : Layout} {a : Nat}
    (h : ∀ r j, r < s.rowCount → j < s.w0 → a ≠ s.dst0.toNat + r * s.ds0 + j ∧ a ≠ s.dst1.toNat + r * s.ds1 + j ∧
      a ≠ s.dst2.toNat + r * s.ds1 + j) : read (writeCells s.mem (rgbYccCells l s)) a = read s.mem a := by
  refine read_gridCells_other s.mem fun r j c hr hj hc => ?_
  obtain ⟨h0, h1, h2⟩ := h r j hr hj
  rcases hc with _ | ⟨_, _ | ⟨_, _ | ⟨_, ⟨⟩⟩⟩⟩
  · exact h0.symm
  · exact h1.symm
  · exact h2.symm

/-- Settles O47: the planes hold the bytes of the forward samples, and those are stored whole because they are samples. -/
theorem rgbToYccOutput : Obligations.RgbToYccOutput := by
  unfold Obligations.RgbToYccOutput
  intro s l
  have hpixel (r j : Nat) := inputPixel_eq s l r j
  have hsamples (r j : Nat) := areSamples_toYcc (areSamples_inputPixel s l r j)
  simp only [hpixel, toYcc_eq] at hsamples
  refine ⟨fun h => ⟨_, exec_of_accepts h rfl, fun r j hr hj => ?_, fun a ha => read_after_rgbYcc_other ha⟩, fun h => ?_⟩
  · obtain ⟨hy, hcb, hcr⟩ := read_after_rgbYcc h hr hj
    rw [hpixel, toYcc_eq] at hy hcb hcr
    obtain ⟨hy0, hy1, hcb0, hcb1, hcr0, hcr1⟩ := hsamples r j
    exact ⟨s8_of_read hy hy0 hy1, s8_of_read hcb hcb0 hcb1, s8_of_read hcr hcr0 hcr1⟩
  · refine samplesAgree_of_accepts h rfl rfl ?_ fun r j _ _ => ?_
    · simp only [outputCells, rgbGrayCells, hpixel]
      rfl
    · obtain ⟨hy0, hy1, -⟩ := hsamples r j
      exact ⟨hy0, hy1⟩

end Sys2Proof.Proofs
end

section
/-! PROOF. Commands that write rows of pixels: each byte of each pixel, in every layout (44_color.md R252, R259; 30_encoding.md
R116), and the bytes left alone. -/

namespace Sys2Proof.Proofs

open Machine Machine.Memory Claims

/-- Rows that do not overlap, of elements of `size` bytes: the row, the element and the byte in it are determined by the address. -/
theorem row_element_byte_unique {n w size stride r j k r' j' k' : Nat} (hrows : n ≤ 1 ∨ w * size ≤ stride) (hr : r < n)
    (hr' : r' < n) (hj : j < w) (hj' : j' < w) (hk : k < size) (hk' : k' < size)
    (h : r * stride + (j * size + k) = r' * stride + (j' * size + k')) : r = r' ∧ j = j' ∧ k = k' := by
  obtain ⟨hrow, hbyte⟩ := row_column_unique hrows hr hr' (pixel_in_row hj hk) (pixel_in_row hj' hk') h
  exact ⟨hrow, row_column_unique (.inr (Nat.le_refl size)) hj hj' hk hk' hbyte⟩

/-- `PUTPIX` writes no byte twice. -/
theorem putPixel_unique {filler : Byte} {l : Layout} {a : Nat} {p : Triple} {c d : Host.Cell} (hc : c ∈ putPixel filler l a p)
    (hd : d ∈ putPixel filler l a p) (h : c.1 = d.1) : c = d := by
  have hne : (putPixel filler l a p).Pairwise fun c d => c.1 ≠ d.1 := by
    cases l <;> simp [putPixel, redOffset, greenOffset, blueOffset, fillerOffset]
  exact List.Pairwise.forall_of_forall_of_flip (R := fun c d => c.1 = d.1 → c = d) (fun _ _ _ => rfl)
    (hne.imp fun hcd he => absurd he hcd) (hne.imp fun hcd he => absurd he.symm hcd) hc hd h

/-- Every byte of `PUTPIX` is read back after a loop that puts a pixel at every turn. -/
theorem read_pixelRows {s : State} {l : Layout} {n w : Nat} (p : Nat → Nat → Triple)
    (hrows : n ≤ 1 ∨ w * pixelBytes l ≤ s.ds0) {r j : Nat} (hr : r < n) (hj : j < w) {c : Host.Cell}
    (hc : c ∈ putPixel s.cfg.filler l (pixelAddress s l r j) (p r j)) :
    read (writeCells s.mem (gridCells n w fun r j => putPixel s.cfg.filler l (pixelAddress s l r j) (p r j))) c.1 = c.2 := by
  refine read_gridCells s.mem hr hj hc fun r' j' d hr' hj' hd he => ?_
  obtain ⟨k, hk, hck⟩ := putPixel_offset hc
  obtain ⟨k', hk', hdk⟩ := putPixel_offset hd
  obtain ⟨rfl, rfl, -⟩ := row_element_byte_unique hrows hr' hr hj' hj hk' hk (by simp only [pixelAddress] at hck hdk; omega)
  rw [putPixel_unique hd hc he]

/-- `PUTPIX` by the offsets of the layout's row (30_encoding.md R116). -/
theorem putPixel_eq (filler : Byte) (l : Layout) (a : Nat) (p : Triple) : putPixel filler l a p =
    [(a + (layoutRow l).2.1, toByte p.a), (a + (layoutRow l).2.2.1, toByte p.b), (a + (layoutRow l).2.2.2.1, toByte p.c)] ++
      ((layoutRow l).2.2.2.2.map fun k => (a + k, filler)).toList := by cases l <;> rfl

/-- A memory with the bytes of `PUTPIX` holds the pixel, its samples whole. -/
theorem pixelIs_of_putPixel {m : Memory} {filler : Byte} {l : Layout} {a : Nat} {p : Triple} (hp : AreSamples p)
    (h : ∀ c ∈ putPixel filler l a p, read m c.1 = c.2) : PixelIs m filler l a p.a p.b p.c := by
  obtain ⟨ha0, ha, hb0, hb, hc0, hc⟩ := hp
  rw [putPixel_eq] at h
  exact ⟨s8_of_read (h (_, toByte p.a) (by simp)) ha0 ha, s8_of_read (h (_, toByte p.b) (by simp)) hb0 hb,
    s8_of_read (h (_, toByte p.c) (by simp)) hc0 hc, fun k hk => h (a + k, filler) (by simp [hk])⟩

/-- A command whose one output is rows at `DST0` leaves every byte outside them alone. -/
theorem sameOutsideRows_outputCells {i : Instr} {s : State} {n w : Nat}
    (h : (plan s i).outputs = [rowRegion s.dst0 n s.ds0 w]) :
    sameOutsideRows s.mem (writeCells s.mem (outputCells i s)) s.dst0.toNat n s.ds0 w := by
  intro a ha
  refine read_outputCells_other i s fun r hr hh => ?_
  obtain rfl := List.mem_singleton.mp (h ▸ hr)
  obtain ⟨row, k, hrow, hk, he⟩ := rowRegion_address hh
  exact ha row k hrow hk he

/-- An accepted command that puts `n` rows of `w` pixels at `DST0` completes with them. -/
theorem pixels_of_accepts {i : Instr} {s : State} {l : Layout} {n w : Nat} {p : Nat → Nat → Triple} (h : s.accepts i)
    (hdata : dataCheck i s = true) (hout : (plan s i).outputs = [rowRegion s.dst0 n s.ds0 (w * pixelBytes l)])
    (hcells : outputCells i s = gridCells n w fun r j => putPixel s.cfg.filler l (pixelAddress s l r j) (p r j))
    (hp : ∀ r j, AreSamples (p r j)) :
    ∃ m, exec i s = .next (s.succeeded m) ∧
      (∀ r j, r < n → j < w → PixelIs m s.cfg.filler l (pixelAddress s l r j) (p r j).a (p r j).b (p r j).c) ∧
      sameOutsideRows s.mem m s.dst0.toNat n s.ds0 (w * pixelBytes l) := by
  refine ⟨_, exec_of_accepts h hdata, fun r j hr hj => pixelIs_of_putPixel (hp r j) fun c hc => ?_,
    sameOutsideRows_outputCells hout⟩
  rw [hcells]
  exact read_pixelRows p (rows_apart_of_accepts h (hout ▸ List.mem_singleton.mpr rfl)) hr hj hc

end Sys2Proof.Proofs
end

section
/-! PROOF. `YCC_RGB` and `YCC_RGB565` complete with the inverse samples of every pixel (O50; 44_color.md R256 to R261). -/

namespace Sys2Proof.Proofs

open Machine Machine.Memory Claims

theorem areSamples_toRgb (p : Triple) : AreSamples (toRgb p) := by
  rw [toRgb_eq]
  exact ⟨(toSample_range _).1, (toSample_range _).2, (toSample_range _).1, (toSample_range _).2, (toSample_range _).1,
    (toSample_range _).2⟩

theorem pack565_eq (p : Triple) : pack565 p = p.a / 8 * 2048 + p.b / 4 * 32 + p.c / 8 := rfl

/-- A packed pixel fits 16 bits (44_color.md R260). -/
theorem pack565_range {p : Triple} (h : AreSamples p) : 0 ≤ pack565 p ∧ pack565 p < 65536 := by
  obtain ⟨ha0, ha, hb0, hb, hc0, hc⟩ := h
  rw [pack565_eq]
  omega

/-- Two bytes at each place of rows that do not overlap: the packed pixel is read back (44_color.md R261). -/
theorem u16_after_yccRgb565 {s : State} (h : s.accepts .yccRgb565) {r j : Nat} (hr : r < s.rowCount) (hj : j < s.w0) :
    (u16 (writeCells s.mem (yccRgb565Cells s)) (s.dst0.toNat + r * s.ds0 + 2 * j) : Int) =
      pack565 (toRgb (planeTriple s r j r j)) := by
  have hrows : s.rowCount ≤ 1 ∨ s.w0 * 2 ≤ s.ds0 := by
    rw [Nat.mul_comm]
    exact rows_apart_of_accepts h (List.mem_singleton.mpr rfl)
  obtain ⟨h0, h1⟩ := pack565_range (areSamples_toRgb (planeTriple s r j r j))
  refine (u16_of_bytes fun k hk => ?_).trans (Int.emod_eq_of_lt h0 h1)
  refine read_gridCells_cellsLE (addr := fun r j => s.dst0.toNat + r * s.ds0 + 2 * j)
    (value := fun r j => pack565 (toRgb (planeTriple s r j r j))) s.mem (fun r j r' j' hr hj hr' hj' hlt hlt' => ?_) hr hj hk
  -- Two values that meet have the larger of their addresses in common.
  obtain ⟨hrow, helement, -⟩ := row_element_byte_unique (k := r' * s.ds0 + 2 * j' - (r * s.ds0 + 2 * j))
    (k' := r * s.ds0 + 2 * j - (r' * s.ds0 + 2 * j')) hrows hr hr' hj hj' (by omega) (by omega) (by omega)
  exact ⟨hrow, helement⟩

/-- Settles O50: the pixels put, and the packed pixels, hold the inverse samples, which are in a byte's range. -/
theorem yccToRgbOutput : Obligations.YccToRgbOutput := by
  unfold Obligations.YccToRgbOutput
  intro s l
  refine ⟨fun h => ?_, fun h => ⟨_, exec_of_accepts h rfl, fun r j hr hj => ?_, sameOutsideRows_outputCells rfl⟩⟩
  · have hpixels := pixels_of_accepts (i := .yccRgb l) h rfl rfl rfl fun r j => areSamples_toRgb (planeTriple s r j r j)
    simp only [pixelAddress, pixelBytes_eq, planeTriple, toRgb_eq] at hpixels
    exact hpixels
  · refine (u16_after_yccRgb565 h hr hj).trans ?_
    rw [planeTriple, toRgb_eq, pack565_eq]
    rfl

end Sys2Proof.Proofs
end

section
/-! PROOF. `DOWN_H2V1` and `DOWN_H2V2` complete with rounded averages of the samples with the right edge replicated (O51;
45_resample.md R291, R292, R294). -/

namespace Sys2Proof.Proofs

open Machine Machine.Memory Claims

section
variable {s : State} {lo hi : Int} {r : Nat}

/-! ## The input samples -/

theorem source_range (s : State) (r j : Nat) : 0 ≤ source s r j ∧ source s r j ≤ 255 := byteVal_range _

theorem inSample_eq_source (s : State) (r j : Nat) : inSample s r j = source s r j := rfl

theorem extSample_range (s : State) (r j : Nat) : 0 ≤ extSample s r j ∧ extSample s r j ≤ 255 := byteVal_range _

/-- The replicated edge adds no value to a row (45_resample.md R291). -/
theorem extSample_of_constant {c : Int} (hw : 1 ≤ s.w0) (hc : ∀ j, j < s.w0 → source s r j = c) (j : Nat) :
    extSample s r j = c := hc _ (by omega)

/-! ## The averages -/

/-- The average of two samples with a bias below the divisor stays between their bounds (45_resample.md R290). -/
theorem downH2v1Sample_between (h : ∀ j, lo ≤ extSample s r j ∧ extSample s r j ≤ hi) (j : Nat) :
    lo ≤ downH2v1Sample s r j ∧ downH2v1Sample s r j ≤ hi := by
  have h0 := h (2 * j)
  have h1 := h (2 * j + 1)
  simp only [downH2v1Sample, asr_eq]
  omega

theorem downH2v2Sample_between (h : ∀ v j, v < 2 → lo ≤ extSample s (2 * r + v) j ∧ extSample s (2 * r + v) j ≤ hi)
    (j : Nat) : lo ≤ downH2v2Sample s r j ∧ downH2v2Sample s r j ≤ hi := by
  have h00 := h 0 (2 * j) (by decide)
  have h01 := h 0 (2 * j + 1) (by decide)
  have h10 := h 1 (2 * j) (by decide)
  have h11 := h 1 (2 * j + 1) (by decide)
  rw [Nat.add_zero] at h00 h01
  simp only [downH2v2Sample, asr_eq]
  split <;> omega

theorem downH2v1Sample_eq (s : State) (r j : Nat) : downH2v1Sample s r j =
    (extSample s r (2 * j) + extSample s r (2 * j + 1) + (if j % 2 = 0 then 0 else 1)) / 2 := by
  have hbias : ((j % 2 : Nat) : Int) = if j % 2 = 0 then 0 else 1 := by split <;> omega
  rw [downH2v1Sample, hbias]
  rfl

/-! ## The commands -/

theorem samplesAgree_downH2v1 (h : s.accepts .downH2v1) :
    SamplesAgree s .downH2v1 s.rowCount s.w1 (downH2v1Sample s) :=
  samplesAgree_of_accepts h rfl rfl rfl fun r j _ _ => downH2v1Sample_between (extSample_range s r) j

theorem samplesAgree_downH2v2 (h : s.accepts .downH2v2) :
    SamplesAgree s .downH2v2 s.rowCount s.w1 (downH2v2Sample s) :=
  samplesAgree_of_accepts h rfl rfl rfl fun _ j _ _ => downH2v2Sample_between (fun _ _ _ => extSample_range s _ _) j

end

/-- Settles O51: the samples written are the averages, which a byte holds whole. -/
theorem downsampleOutput : Obligations.DownsampleOutput := by
  unfold Obligations.DownsampleOutput
  refine fun s => ⟨fun h => ?_, samplesAgree_downH2v2⟩
  have hsamples := samplesAgree_downH2v1 h
  rwa [funext₂ (downH2v1Sample_eq s)] at hsamples

end Sys2Proof.Proofs
end

section
/-! PROOF. `UP_H2V1_BOX` and `UP_H2V2_BOX` complete with every sample replicated (O52; 45_resample.md R296 to R298). -/

namespace Sys2Proof.Proofs

open Machine Machine.Memory Claims

/-- The box upsampler with `k` output rows for each input row (45_resample.md R297, R298). -/
def boxInstr (k : Nat) : Instr := if k = 1 then .upH2v1Box else .upH2v2Box

/-- Both box upsamplers: output row `r` and column `j` hold the sample of row `r / k` and column `j / 2`. -/
theorem samplesAgree_box {s : State} {k : Nat} (hk : k = 1 ∨ k = 2) (h : s.accepts (boxInstr k)) :
    SamplesAgree s (boxInstr k) (k * s.rowCount) (2 * s.w0) fun r j => source s (r / k) (j / 2) := by
  rcases hk with rfl | rfl
  · refine samplesAgree_of_accepts h rfl rfl ?_ fun r j _ _ => source_range s _ _
    simp only [Nat.one_mul, Nat.div_one]
    rfl
  · exact samplesAgree_of_accepts h rfl rfl rfl fun r j _ _ => source_range s _ _

/-- Settles O52, by the two cases of the box upsampler. -/
theorem boxUpsampleOutput : Obligations.BoxUpsampleOutput := by
  unfold Obligations.BoxUpsampleOutput
  refine fun s => ⟨fun h => ?_, samplesAgree_box (.inr rfl)⟩
  have hsamples := samplesAgree_box (.inl rfl) h
  simp only [Nat.one_mul, Nat.div_one] at hsamples
  exact hsamples

end Sys2Proof.Proofs
end

section
/-! PROOF. `UP_H2V1_FANCY` completes with horizontal 3:1 blends and copied ends (O53; 45_resample.md R300 to R302). -/

namespace Sys2Proof.Proofs

open Machine Machine.Memory Claims

section
variable {a : Nat → Int} {w k : Nat} {bL bR : Int} {first last : Int → Int}

/-! ## The horizontal blend -/

/-- Entry `v` of pair `r` is one of the `2n` entries of `n` pairs. -/
theorem pair_index_lt {n r v : Nat} (hr : r < n) (hv : v < 2) : 2 * r + v < 2 * n := by omega

theorem fancyRow_first : fancyRow a w k bL bR first last 0 = first (a 0) := if_pos rfl

theorem fancyRow_last (hw : 1 ≤ w) : fancyRow a w k bL bR first last (2 * w - 1) = last (a (w - 1)) := by
  rw [fancyRow, if_neg (by omega), if_pos (by omega)]

theorem fancyRow_even {j : Nat} (h1 : 1 ≤ j) :
    fancyRow a w k bL bR first last (2 * j) = asr (3 * a j + a (j - 1) + bL) k := by
  rw [fancyRow, if_neg (by omega), if_neg (by omega), if_pos (by omega), show 2 * j / 2 = j by omega]

theorem fancyRow_odd {j : Nat} (hj : j + 1 < w) :
    fancyRow a w k bL bR first last (2 * j + 1) = asr (3 * a j + a (j + 1) + bR) k := by
  rw [fancyRow, if_neg (by omega), if_neg (by omega), if_neg (by omega), show (2 * j + 1) / 2 = j by omega]

/-- What holds of the two ends and of every blend in between holds of every output of the row. -/
theorem fancyRow_forall {P : Int → Prop} (hfirst : P (first (a 0))) (hlast : P (last (a (w - 1))))
    (heven : ∀ j, 1 ≤ j → j < w → P (asr (3 * a j + a (j - 1) + bL) k))
    (hodd : ∀ j, j + 1 < w → P (asr (3 * a j + a (j + 1) + bR) k)) {i : Nat} (hi : i < 2 * w) :
    P (fancyRow a w k bL bR first last i) := by
  obtain rfl | rfl | ⟨j, h1, hj, rfl⟩ | ⟨j, hj, rfl⟩ : i = 0 ∨ i = 2 * w - 1 ∨ (∃ j, 1 ≤ j ∧ j < w ∧ i = 2 * j) ∨
      ∃ j, j + 1 < w ∧ i = 2 * j + 1 := by
    rcases Nat.mod_two_eq_zero_or_one i with hparity | hparity
    · exact (Nat.eq_zero_or_pos i).imp_right fun _ => .inr (.inl ⟨i / 2, by omega, by omega, by omega⟩)
    · exact .inr ((Nat.lt_or_ge (i + 1) (2 * w)).elim (fun _ => .inr (.inr ⟨i / 2, by omega, by omega⟩))
        fun _ => .inl (by omega))
  · rwa [fancyRow_first]
  · rwa [fancyRow_last (by omega)]
  · rw [fancyRow_even h1]
    exact heven j h1 hj
  · rw [fancyRow_odd hj]
    exact hodd j hj

end

section
variable {s : State}

/-- The blends of a row stay between the bounds of its samples (45_resample.md R290). -/
theorem upH2v1FancySample_between {lo hi : Int} {r i : Nat} (h : ∀ j, j < s.w0 → lo ≤ source s r j ∧ source s r j ≤ hi)
    (hcol : i < 2 * s.w0) : lo ≤ upH2v1FancySample s r i ∧ upH2v1FancySample s r i ≤ hi := by
  refine fancyRow_forall (P := fun x => lo ≤ x ∧ x ≤ hi) (h 0 (by omega)) (h _ (by omega)) (fun j h1 hj => ?_)
    (fun j hj => ?_) hcol <;> simp only [inSample_eq_source, asr_eq]
  · have hnear := h j hj
    have hbefore := h (j - 1) (by omega)
    omega
  · have hnear := h j (by omega)
    have hafter := h (j + 1) hj
    omega

theorem samplesAgree_upH2v1Fancy (h : s.accepts .upH2v1Fancy) :
    SamplesAgree s .upH2v1Fancy s.rowCount (2 * s.w0) (upH2v1FancySample s) :=
  samplesAgree_of_accepts h rfl rfl rfl fun r _ _ hj => upH2v1FancySample_between (fun j _ => source_range s r j) hj

/-- `UP_H2V1_FANCY` and `UP_H2V2_FANCY` ask for two columns (30_encoding.md R114). -/
theorem two_le_width_of_accepts {i : Instr} (h : s.accepts i) (hparam : (plan s i).paramOk = (s.imageOk && Nat.ble 2 s.w0)) :
    2 ≤ s.w0 := (fancyOk_iff.mp (hparam ▸ (check_none_iff.mp h).1)).2

end

/-- Settles O53: the samples written are the horizontal blend of each row. -/
theorem fancyHorizontalOutput : Obligations.FancyHorizontalOutput := by
  unfold Obligations.FancyHorizontalOutput
  intro s h
  have hw : 2 ≤ s.w0 := two_le_width_of_accepts h rfl
  obtain ⟨m, hexec, hsample, hframe⟩ := samplesAgree_upH2v1Fancy h
  refine ⟨m, hexec, fun r hr => ⟨?_, ?_, fun j h1 hj => ?_, fun j hj => ?_⟩, hframe⟩
  · exact (hsample r 0 hr (by omega)).trans fancyRow_first
  · exact (hsample r (2 * s.w0 - 1) hr (by omega)).trans (fancyRow_last (by omega))
  · exact (hsample r (2 * j) hr (pair_index_lt hj Nat.two_pos)).trans (fancyRow_even h1)
  · exact (hsample r (2 * j + 1) hr (pair_index_lt (Nat.lt_of_succ_lt hj) Nat.one_lt_two)).trans (fancyRow_odd hj)

end Sys2Proof.Proofs
end

section
/-! PROOF. `UP_H1V2_FANCY` and `UP_H2V2_FANCY` complete with blends of rows and their context rows (O54, O55; 45_resample.md R303 to
R308). -/

namespace Sys2Proof.Proofs

open Machine Machine.Memory Claims

section
variable {s : State}

/-! ## The vertical sums -/

theorem context_range (s : State) (r j : Nat) : 0 ≤ context s r j ∧ context s r j ≤ 255 := byteVal_range _

theorem contextSample_eq_context (hs : s.ss0 ≤ s.src0.toNat) (r j : Nat) : contextSample s r j = context s r j := by
  have haddr : s.src0.toNat + r * s.ss0 + j - s.ss0 = s.src0.toNat - s.ss0 + r * s.ss0 + j := by omega
  rw [contextSample, haddr]
  rfl

/-- Output row `2r + v` blends the row with the one above for `v = 0` and with the one below for `v = 1`. -/
theorem columnSum_eq (hs : s.ss0 ≤ s.src0.toNat) (r j : Nat) {v : Nat} (hv : v < 2) :
    columnSum s (2 * r + v) j = 3 * context s (r + 1) j + context s (r + 2 * v) j := by
  have hfar : (if (2 * r + v) % 2 = 0 then (2 * r + v) / 2 else (2 * r + v) / 2 + 2) = r + 2 * v := by split <;> omega
  rw [columnSum, contextSample_eq_context hs, contextSample_eq_context hs, hfar, show (2 * r + v) / 2 = r by omega]

theorem upH1v2FancySample_eq (hs : s.ss0 ≤ s.src0.toNat) (r j : Nat) {v : Nat} (hv : v < 2) :
    upH1v2FancySample s (2 * r + v) j =
      (3 * context s (r + 1) j + context s (r + 2 * v) j + (if v = 0 then 1 else 2)) / 4 := by
  rw [upH1v2FancySample, columnSum_eq hs r j hv, show (2 * r + v) % 2 = v by omega]
  rfl

section
variable {lo hi : Int} {r v : Nat} (hs : s.ss0 ≤ s.src0.toNat)
  (h : ∀ u j, u < 3 → j < s.w0 → lo ≤ context s (r + u) j ∧ context s (r + u) j ≤ hi) (hv : v < 2)
include hs h hv

/-! ## The blends stay between the bounds of the row and both rows around it (45_resample.md R290) -/

theorem columnSum_between {j : Nat} (hj : j < s.w0) :
    4 * lo ≤ columnSum s (2 * r + v) j ∧ columnSum s (2 * r + v) j ≤ 4 * hi := by
  have hnear := h 1 j (by decide) hj
  have hfar := h (2 * v) j (by omega) hj
  rw [columnSum_eq hs r j hv]
  omega

theorem upH1v2FancySample_between {j : Nat} (hj : j < s.w0) :
    lo ≤ upH1v2FancySample s (2 * r + v) j ∧ upH1v2FancySample s (2 * r + v) j ≤ hi := by
  have hsum := columnSum_between hs h hv hj
  simp only [upH1v2FancySample, asr_eq]
  split <;> omega

theorem upH2v2FancySample_between {i : Nat} (hcol : i < 2 * s.w0) :
    lo ≤ upH2v2FancySample s (2 * r + v) i ∧ upH2v2FancySample s (2 * r + v) i ≤ hi := by
  have hsum (j : Nat) (hj : j < s.w0) := columnSum_between hs h hv hj
  refine fancyRow_forall (P := fun x => lo ≤ x ∧ x ≤ hi) ?_ ?_ (fun j h1 hj => ?_) (fun j hj => ?_) hcol <;> simp only [asr_eq]
  · have hedge := hsum 0 (by omega)
    omega
  · have hedge := hsum (s.w0 - 1) (by omega)
    omega
  · have hnear := hsum j hj
    have hbefore := hsum (j - 1) (by omega)
    omega
  · have hnear := hsum j (by omega)
    have hafter := hsum (j + 1) hj
    omega

end

/-! ## The commands -/

theorem samplesAgree_upH1v2Fancy (h : s.accepts .upH1v2Fancy) :
    SamplesAgree s .upH1v2Fancy (2 * s.rowCount) s.w0 (upH1v2FancySample s) := by
  refine samplesAgree_of_accepts h rfl rfl rfl fun y j _ hj => ?_
  rw [← Nat.div_add_mod y 2]
  exact upH1v2FancySample_between (context_base h List.mem_cons_self) (fun _ _ _ _ => context_range s _ _)
    (Nat.mod_lt y Nat.two_pos) hj

theorem samplesAgree_upH2v2Fancy (h : s.accepts .upH2v2Fancy) :
    SamplesAgree s .upH2v2Fancy (2 * s.rowCount) (2 * s.w0) (upH2v2FancySample s) := by
  refine samplesAgree_of_accepts h rfl rfl rfl fun y j _ hj => ?_
  rw [← Nat.div_add_mod y 2]
  exact upH2v2FancySample_between (context_base h List.mem_cons_self) (fun _ _ _ _ => context_range s _ _)
    (Nat.mod_lt y Nat.two_pos) hj

end

/-- Settles O54: the samples written are the vertical sums, with bias 1 in the upper row and 2 in the lower. -/
theorem fancyVerticalOutput : Obligations.FancyVerticalOutput := by
  unfold Obligations.FancyVerticalOutput
  intro s h
  have hs : s.ss0 ≤ s.src0.toNat := context_base h List.mem_cons_self
  obtain ⟨m, hexec, hsample, hframe⟩ := samplesAgree_upH1v2Fancy h
  refine ⟨m, hexec, fun r j hr hj => ⟨?_, ?_⟩, hframe⟩
  · rw [hsample (2 * r) j (pair_index_lt hr Nat.two_pos) hj]
    simpa using upH1v2FancySample_eq hs r j Nat.two_pos
  · rw [hsample (2 * r + 1) j (pair_index_lt hr Nat.one_lt_two) hj, upH1v2FancySample_eq hs r j Nat.one_lt_two,
      if_neg Nat.one_ne_zero]

/-- Settles O55: the samples written are the horizontal blend of the vertical sums, so their weights multiply out. -/
theorem fancyPlaneOutput : Obligations.FancyPlaneOutput := by
  unfold Obligations.FancyPlaneOutput
  intro s h
  have hs : s.ss0 ≤ s.src0.toNat := context_base h List.mem_cons_self
  have hw : 2 ≤ s.w0 := two_le_width_of_accepts h rfl
  obtain ⟨m, hexec, hsample, hframe⟩ := samplesAgree_upH2v2Fancy h
  refine ⟨m, hexec, fun r v hr hv => ?_, hframe⟩
  have hrow (i : Nat) := hsample (2 * r + v) i (pair_index_lt hr hv)
  have hsum (j : Nat) := columnSum_eq hs r j hv
  refine ⟨?_, ?_, fun j h1 hj => ?_, fun j hj => ?_⟩
  · rw [hrow 0 (by omega), upH2v2FancySample, fancyRow_first, hsum, asr_eq]
    omega
  · refine (hrow (2 * s.w0 - 1) (by omega)).trans ?_
    rw [upH2v2FancySample, fancyRow_last (by omega), hsum, asr_eq]
    show _ = (12 * context s (r + 1) (s.w0 - 1) + 4 * context s (r + 2 * v) (s.w0 - 1) + 7) / 16
    omega
  · rw [hrow (2 * j) (pair_index_lt hj Nat.two_pos), upH2v2FancySample, fancyRow_even h1, hsum, hsum, asr_eq]
    omega
  · rw [hrow (2 * j + 1) (pair_index_lt (Nat.lt_of_succ_lt hj) Nat.one_lt_two), upH2v2FancySample,
      fancyRow_odd (w := s.w0) hj, hsum, hsum, asr_eq]
    omega

end Sys2Proof.Proofs
end

section
/-! PROOF. The constant laws: outputs that lie between the bounds of the samples they are made from are `c` where those are all `c`
(O56; 45_resample.md R293, R302, R306). -/

namespace Sys2Proof.Proofs

open Machine Machine.Memory Claims

/-- Settles O56, by the bounds of each command's samples, with `c` as the lower and the upper one. -/
theorem resampleConstantLaws : Obligations.ResampleConstantLaws := by
  unfold Obligations.ResampleConstantLaws
  intro s c
  refine ⟨fun hc h => ?_, fun hc h => ?_, fun h => ?_, fun h => ?_, fun h => ?_⟩
  · obtain ⟨m, hexec, hsample, -⟩ := samplesAgree_downH2v1 h
    refine ⟨m, hexec, fun r j hr hj => (hsample r j hr hj).trans (ge_antisymm_iff.mpr ?_)⟩
    exact downH2v1Sample_between
      (fun j => ge_antisymm_iff.mp (extSample_of_constant (down_width h) (fun j hj => hc r j (by omega) hj) j)) j
  · obtain ⟨m, hexec, hsample, -⟩ := samplesAgree_downH2v2 h
    refine ⟨m, hexec, fun r j hr hj => (hsample r j hr hj).trans (ge_antisymm_iff.mpr ?_)⟩
    exact downH2v2Sample_between
      (fun v j hv => ge_antisymm_iff.mp (extSample_of_constant (down_width h) (fun j hj => hc _ j (by omega) hj) j)) j
  · have hw : 2 ≤ s.w0 := two_le_width_of_accepts h rfl
    obtain ⟨m, hexec, hsample, -⟩ := samplesAgree_upH2v1Fancy h
    refine ⟨m, hexec, fun r hr => ⟨?_, ?_, fun hc j hj => (hsample r j hr hj).trans (ge_antisymm_iff.mpr ?_)⟩⟩
    · exact (hsample r 0 hr (by omega)).trans fancyRow_first
    · exact (hsample r (2 * s.w0 - 1) hr (by omega)).trans (fancyRow_last (by omega))
    · exact upH2v1FancySample_between (fun j hj => ge_antisymm_iff.mp (hc j hj)) hj
  · obtain ⟨m, hexec, hsample, -⟩ := samplesAgree_upH1v2Fancy h
    have hs : s.ss0 ≤ s.src0.toNat := context_base h List.mem_cons_self
    refine ⟨m, hexec, fun r hr hc v j hv hj => (hsample (2 * r + v) j (pair_index_lt hr hv) hj).trans (ge_antisymm_iff.mpr ?_)⟩
    exact upH1v2FancySample_between hs (fun u j hu hj => ge_antisymm_iff.mp (hc u j hu hj)) hv hj
  · obtain ⟨m, hexec, hsample, -⟩ := samplesAgree_upH2v2Fancy h
    have hs : s.ss0 ≤ s.src0.toNat := context_base h List.mem_cons_self
    refine ⟨m, hexec, fun r hr hc v j hv hj => (hsample (2 * r + v) j (pair_index_lt hr hv) hj).trans (ge_antisymm_iff.mpr ?_)⟩
    exact upH2v2FancySample_between hs (fun u j hu hj => ge_antisymm_iff.mp (hc u j hu hj)) hv hj

end Sys2Proof.Proofs
end

section
/-! PROOF. `MERGED_H2V1` and `MERGED_H2V2` complete with the inverse samples of every luma sample and the chroma sample that serves
it (O57; 45_resample.md R309 to R312). -/

namespace Sys2Proof.Proofs

open Machine Machine.Memory Claims

/-- The merged command with `k` luma rows for each chroma row (45_resample.md R311, R312). -/
def mergedInstr (l : Layout) (k : Nat) : Instr := if k = 1 then .mergedH2v1 l else .mergedH2v2 l

section
variable {s : State} {l : Layout} {k : Nat} (hk : k = 1 ∨ k = 2)
include hk

theorem outputs_merged : (plan s (mergedInstr l k)).outputs =
    [rowRegion s.dst0 (k * s.rowCount) s.ds0 (s.w0 * pixelBytes l)] := by
  rcases hk with rfl | rfl <;> rfl

theorem dataCheck_merged : dataCheck (mergedInstr l k) s = true := by rcases hk with rfl | rfl <;> rfl

/-- Both merged commands: chroma row `r / k` and column `j / 2` serve luma row `r` and column `j`. -/
theorem outputCells_merged : outputCells (mergedInstr l k) s = gridCells (k * s.rowCount) s.w0 fun r j =>
    putPixel s.cfg.filler l (pixelAddress s l r j) (toRgb (planeTriple s r j (r / k) (j / 2))) := by
  rcases hk with rfl | rfl
  · simp only [Nat.one_mul, Nat.div_one]
    rfl
  · rfl

end

/-- Settles O57: the pixels put hold the inverse samples of the planes at the chroma sample that serves each. -/
theorem mergedOutput : Obligations.MergedOutput := by
  unfold Obligations.MergedOutput
  intro s l k _ _ _ _ _ _ hk h
  have hpixels := pixels_of_accepts (i := mergedInstr l k) h (dataCheck_merged hk) (outputs_merged hk) (outputCells_merged hk)
    fun r j => areSamples_toRgb (planeTriple s r j (r / k) (j / 2))
  simp only [pixelAddress, pixelBytes_eq, planeTriple, toRgb_eq] at hpixels
  exact hpixels

end Sys2Proof.Proofs
end

section
/-! PROOF. A merged command writes what box upsampling followed by `YCC_RGB` writes: both put the pixel of the same three samples
(O58; 45_resample.md R313). -/

namespace Sys2Proof.Proofs

open Machine Machine.Memory Claims

/-- A command steps to one state, so what is said of the memory it leaves is said of that state's. -/
theorem mem_of_exec {i : Instr} {s t : State} {m : Memory} (hm : exec i s = .next (s.succeeded m)) (ht : exec i s = .next t) :
    t.mem = m := by
  cases hm.symm.trans ht
  rfl

theorem read_eq_of_s8_eq {m m' : Memory} {a a' : Nat} (h : s8 m a = s8 m' a') : read m a = read m' a' :=
  BitVec.eq_of_toNat_eq (Int.ofNat_inj.mp h)

/-- Every byte of a pixel is a channel or the filler (30_encoding.md R116). -/
theorem layoutRow_byte (l : Layout) {k : Nat} (hk : k < layoutSize l) :
    k = (layoutRow l).2.1 ∨ k = (layoutRow l).2.2.1 ∨ k = (layoutRow l).2.2.2.1 ∨ (layoutRow l).2.2.2.2 = some k := by
  cases l <;> simp only [layoutSize, layoutRow] at hk ⊢ <;> simp only [Option.some.injEq, reduceCtorEq] <;> omega

/-- Two pixels with the same channels and filler are the same bytes. -/
theorem read_eq_of_pixelIs {m m' : Memory} {filler : Byte} {l : Layout} {a a' : Nat} {r g b : Int}
    (h : PixelIs m filler l a r g b) (h' : PixelIs m' filler l a' r g b) {k : Nat} (hk : k < layoutSize l) :
    read m (a + k) = read m' (a' + k) := by
  obtain ⟨hr, hg, hb, hx⟩ := h
  obtain ⟨hr', hg', hb', hx'⟩ := h'
  rcases layoutRow_byte l hk with rfl | rfl | rfl | hfiller
  · exact read_eq_of_s8_eq (hr.trans hr'.symm)
  · exact read_eq_of_s8_eq (hg.trans hg'.symm)
  · exact read_eq_of_s8_eq (hb.trans hb'.symm)
  · exact (hx k hfiller).trans (hx' k hfiller).symm

/-- The plane a box upsampler leaves, where its input is a plane `chroma` of `n` rows of `h` samples. -/
theorem target_after_box {b b' : State} {k n h : Nat} {chroma : Nat → Nat → Int} (hk : k = 1 ∨ k = 2)
    (hb : b.accepts (boxInstr k)) (hexec : exec (boxInstr k) b = .next b') (hn : b.rowCount = n) (hh : b.w0 = h)
    (hsource : ∀ r j, r < n → j < h → source b r j = chroma r j) {r j : Nat} (hr : r < k * n) (hj : j < 2 * h) :
    target b b'.mem r j = chroma (r / k) (j / 2) := by
  obtain ⟨m, hm, hsample, -⟩ := samplesAgree_box hk hb
  subst hn hh
  rw [mem_of_exec hm hexec, hsample r j hr hj]
  exact hsource _ _ (Nat.div_lt_of_lt_mul hr) (Nat.div_lt_of_lt_mul hj)

/-- Settles O58: pixel by pixel, the two commands put the channels of the same samples. -/
theorem mergedEquivalence : Obligations.MergedEquivalence := by
  unfold Obligations.MergedEquivalence
  intro s b c y s' b' c' y' l k q _ _ n w h band hk hs hb hc hy hexec hexecB hexecC hexecY hnb hnc hwb hwc hsourceB hsourceC
    hband hwy hfiller hluma hcb hcr r j hr hj
  obtain ⟨m, hm, hmerged, -⟩ := mergedOutput s l k hk hs
  obtain ⟨m', hm', hconverted, -⟩ := (yccToRgbOutput y l).1 hy
  obtain rfl := mem_of_exec hm hexec
  obtain rfl := mem_of_exec hm' hexecY
  have hrow : q + r < k * n := by omega
  -- Byte `j` of the row is byte `j % size` of pixel `j / size`.
  have hcol : j / layoutSize l < w := Nat.div_lt_of_lt_mul (Nat.mul_comm _ _ ▸ hj)
  have hcol' : j / layoutSize l < 2 * h := by omega
  have hB := target_after_box hk hb hexecB (congrArg BitVec.toNat hnb) hwb hsourceB hrow hcol'
  have hC := target_after_box hk hc hexecC (congrArg BitVec.toNat hnc) hwc hsourceC hrow hcol'
  specialize hmerged (q + r) (j / layoutSize l) hrow hcol
  specialize hconverted r (j / layoutSize l) hr (hwy ▸ hcol)
  beta_reduce at hmerged hconverted
  rw [hluma r _ hr hcol, hcb r _ hr hcol, hcr r _ hr hcol, hB, hC, hfiller] at hconverted
  have hbyte := read_eq_of_pixelIs hmerged hconverted (Nat.mod_lt j (layoutSize_pos l))
  have hsplit (a : Nat) : a + j / layoutSize l * layoutSize l + j % layoutSize l = a + j := by
    rw [Nat.add_assoc, Nat.div_add_mod']
  rwa [hsplit, hsplit] at hbyte

end Sys2Proof.Proofs
end

section
/-! PROOF. The seven checks of a command in their order, and what a command that fails one of them leaves (O18, O19;
60_exceptions.md R402, R403). -/

namespace Sys2Proof.Proofs

open Machine Machine.Memory Claims

/-! ## When a check fails -/

theorem alignsOk_eq_false_iff {l : List (Nat × Nat)} : alignsOk l = false ↔ ∃ x ∈ l, ¬ x.2 ∣ x.1 := by
  simp [alignsOk, Nat.dvd_iff_mod_eq_zero]

theorem inRange_eq_false_iff {p : Plan} {size : Nat} : p.inRange size = false ↔ ∃ r ∈ p.inputs ++ p.outputs,
    r.base < 0 ∨ (size : Int) < r.base + ((r.nrows : Int) - 1) * (r.stride : Int) + (r.rowbytes : Int) := by
  rw [Plan.inRange, ← List.all_append, List.all_eq_false]
  refine exists_congr fun r => and_congr_right fun _ => ?_
  rw [inRange_iff, not_and_or, Int.not_le, Int.not_le]
  rfl

theorem meets_comm (r t : Region) : r.meets t = t.meets r := by
  rw [Region.meets, Region.meets, max_comm, min_comm]

/-- Meeting is symmetric, so the two regions may be named in either order. -/
theorem pairwiseApart_eq_false_iff {l : List Region} : pairwiseApart l = false ↔
    ∃ j k, ∃ (hj : j < l.length) (hk : k < l.length), j ≠ k ∧ (l[j]).meets l[k] = true := by
  rw [← Bool.not_eq_true, pairwiseApart_iff, List.pairwise_iff_getElem]
  simp only [not_forall, Bool.not_eq_false]
  constructor
  · rintro ⟨j, k, hj, hk, hlt, h⟩
    exact ⟨j, k, hj, hk, hlt.ne, h⟩
  · rintro ⟨j, k, hj, hk, hne, h⟩
    rcases Nat.lt_or_gt_of_ne hne with hlt | hgt
    · exact ⟨j, k, hj, hk, hlt, h⟩
    · exact ⟨k, j, hk, hj, hgt, meets_comm l[j] l[k] ▸ h⟩

theorem apart_eq_false_iff {p : Plan} : p.apart = false ↔
    (∃ o ∈ p.outputs, ∃ r ∈ p.inputs, o.meets r = true) ∨ (∃ o ∈ p.outputs, 1 < o.nrows ∧ o.stride < o.rowbytes) ∨
      ∃ j k, ∃ (hj : j < p.outputs.length) (hk : k < p.outputs.length),
        j ≠ k ∧ (p.outputs[j]).meets (p.outputs[k]) = true := by
  rw [Plan.apart, Bool.and_eq_false_iff, Bool.and_eq_false_iff, pairwiseApart_eq_false_iff, or_assoc]
  refine or_congr ?_ (or_comm.trans (or_congr ?_ Iff.rfl))
  · simp
  · simp [Region.selfOverlap]

/-- Only `QTBL_PREP` reads a value that may be illegal (42_quant.md R190). -/
theorem dataCheck_eq_false_iff {i : Instr} {s : State} : dataCheck i s = false ↔
    i = .qtblPrep ∧ ∃ k, k < 64 ∧ u16 s.mem (s.src0.toNat + 2 * k) = 0 := by
  by_cases hi : i = .qtblPrep
  · subst hi
    rw [← Bool.not_eq_true, show dataCheck .qtblPrep s = divisorsOk s from rfl, divisorsOk_iff]
    simp
  · have hok : dataCheck i s = true := by
      unfold dataCheck
      split
      · exact absurd rfl hi
      · rfl
    simp [hi, hok]

/-! ## The order of the checks -/

section
variable {p : Plan} {size : Nat}

theorem check_of_param (h : p.paramOk = false) : p.check size = some .param := by simp [Plan.check, h]

theorem check_of_align (hparam : p.paramOk = true) (h : alignsOk p.aligns = false) : p.check size = some .align := by
  simp [Plan.check, hparam, h]

theorem check_of_range (hparam : p.paramOk = true) (halign : alignsOk p.aligns = true) (h : p.inRange size = false) :
    p.check size = some .range := by
  simp [Plan.check, hparam, halign, h]

theorem check_of_overlap (hparam : p.paramOk = true) (halign : alignsOk p.aligns = true) (hrange : p.inRange size = true)
    (h : p.apart = false) : p.check size = some .overlap := by
  simp [Plan.check, hparam, halign, hrange, h]

end

theorem exec_of_check {i : Instr} {s : State} {e : CmdError} (h : (plan s i).check s.cfg.dmemSize = some e) :
    exec i s = .next (s.failed e.code) := by
  rw [exec_eq_runCommand, runCommand_of_error (dataCheck i) (outputCells i) h]
  rfl

theorem exec_of_bad_data {i : Instr} {s : State} (h : s.accepts i) (hdata : dataCheck i s = false) :
    exec i s = .next (s.failed 0x07#8) := by
  rw [exec_eq_runCommand, runCommand, show (plan s i).check s.cfg.dmemSize = none from h, hdata]
  rfl

/-- Settles O18: the decoder makes the first two checks, the plan the next four in order, and the data check comes last. -/
theorem checkOrder : Obligations.CheckOrder := by
  unfold Obligations.CheckOrder
  intro s rest hturn hb
  rw [step_of_engineNext hturn]
  obtain ⟨hopcode, hreserved, -⟩ := decodeErrorsByField s.cmd
  refine ⟨fun hop => engineTurn_of_decode_error (s := { s with agenda := rest }) hb (hopcode hop),
    fun hop hbad => engineTurn_of_decode_error (s := { s with agenda := rest }) hb (hreserved hop hbad), fun i hd => ?_⟩
  intro p paramBad alignBad rangeBad overlapBad dataBad
  have hparam : ¬ paramBad → p.paramOk = true := eq_true_of_ne_false
  have halign : ¬ alignBad → alignsOk p.aligns = true := fun h => eq_true_of_ne_false (mt alignsOk_eq_false_iff.mp h)
  have hrange : ¬ rangeBad → p.inRange s.cfg.dmemSize = true := fun h => eq_true_of_ne_false (mt inRange_eq_false_iff.mp h)
  have hoverlap : ¬ overlapBad → p.apart = true := fun h => eq_true_of_ne_false (mt apart_eq_false_iff.mp h)
  have hdata : dataBad ↔ dataCheck i { s with agenda := rest } = false :=
    (dataCheck_eq_false_iff (s := { s with agenda := rest })).symm
  have hplan : plan { s with agenda := rest } i = p := plan_agenda s rest i
  have haccepts (h3 : ¬ paramBad) (h4 : ¬ alignBad) (h5 : ¬ rangeBad) (h6 : ¬ overlapBad) :
      { s with agenda := rest }.accepts i := by
    rw [State.accepts, hplan]
    exact check_none_iff.mpr ⟨hparam h3, halign h4, hrange h5, hoverlap h6⟩
  rw [engineTurn_of_decode (s := { s with agenda := rest }) hb hd]
  -- `h3` to `h6` say that checks 3 to 6 of R403 pass, `h` that the next one fails.
  exact ⟨fun h => exec_of_check (hplan ▸ check_of_param h),
    fun h3 h => exec_of_check (hplan ▸ check_of_align (hparam h3) (alignsOk_eq_false_iff.mpr h)),
    fun h3 h4 h => exec_of_check (hplan ▸ check_of_range (hparam h3) (halign h4) (inRange_eq_false_iff.mpr h)),
    fun h3 h4 h5 h => exec_of_check
      (hplan ▸ check_of_overlap (hparam h3) (halign h4) (hrange h5) (apart_eq_false_iff.mpr h)),
    fun h3 h4 h5 h6 h => exec_of_bad_data (haccepts h3 h4 h5 h6) (hdata.mp h),
    fun h3 h4 h5 h6 hok => ⟨_, exec_of_accepts (haccepts h3 h4 h5 h6) (eq_true_of_ne_false (mt hdata.mpr hok))⟩⟩

/-- Every error has one of the codes of 60_exceptions.md R401. -/
theorem code_range (e : CmdError) : 1 ≤ e.code.toNat ∧ e.code.toNat ≤ 7 := by cases e <;> decide

/-- Settles O19: the turn failed, because a success leaves `ERR` 0, and every code is from 1 to 7. -/
theorem failedCommandsWriteNothing : Obligations.FailedCommandsWriteNothing := by
  unfold Obligations.FailedCommandsWriteNothing
  intro s t rest hturn hb hstep herr
  rw [step_of_engineNext hturn] at hstep
  have hirq := irq_engineTurn (s := { s with agenda := rest }) hb hstep
  rcases engineTurn_outcomes { s with agenda := rest } with ⟨hidle, -⟩ | ⟨-, e, h⟩ | ⟨-, m, h⟩
  · cases hb.symm.trans hidle
  · cases h.symm.trans hstep
    obtain ⟨hlo, hhi⟩ := code_range e
    exact ⟨rfl, rfl, hlo, hhi, fun hen => hirq.trans hen⟩
  · cases h.symm.trans hstep
    cases herr

end Sys2Proof.Proofs
end
